-- ==== Sys2Proof/Word.lean ====
section
/-! DEFINITION. Word.lean: the machine's words: a byte, a 7-bit text character, a 32-bit register, a 64-bit
command word (spec 00_scope.md R6, 10_state.md R14, R22, 30_encoding.md R80). -/

namespace Sys2Proof

/-- A byte of a buffer: 8 bits, 0..255 (R6). -/
abbrev Byte := BitVec 8

/-- A character of TXT: 7 bits (R22). -/
abbrev Char7 := BitVec 7

/-- A 32-bit register (R14, R15, R16). -/
abbrev Reg32 := BitVec 32

/-- A command word: every command is one 64-bit word (R80). -/
abbrev Command := BitVec 64

end Sys2Proof
end

