-- ==== Sys2Proof/Syntax.lean ====
section
/-! DEFINITION. Syntax.lean: the twelve commands of 30_encoding.md R84, one constructor per row of the opcode table.
An offset and an argument are the naturals the command word spells (R83: nothing is sign-extended, scaled or split);
that they fit their fields is `WellFormed`. -/

namespace Sys2Proof

/-- The `buf` field of a ByteCodec command (R81): 0 selects LOG, 1 selects PHYS. -/
inductive Buf where
  | log
  | phys
  deriving DecidableEq, Repr

/-- The commands (R84). `ofs` is the byte offset, `len` GETTEXT's length, `value` a SET's value (R81, R82). -/
inductive Instr where
  /-- GETU8 buf, ofs (R101). -/
  | getu8 (buf : Buf) (ofs : Nat)
  /-- GETU16 buf, ofs (R102). -/
  | getu16 (buf : Buf) (ofs : Nat)
  /-- GETU24 buf, ofs (R103). -/
  | getu24 (buf : Buf) (ofs : Nat)
  /-- GETTEXT buf, ofs, len (R104). -/
  | gettext (buf : Buf) (ofs len : Nat)
  /-- SETU8 buf, ofs, value (R106). -/
  | setu8 (buf : Buf) (ofs value : Nat)
  /-- SETU16 buf, ofs, value (R107). -/
  | setu16 (buf : Buf) (ofs value : Nat)
  /-- SETU24 buf, ofs, value (R108). -/
  | setu24 (buf : Buf) (ofs value : Nat)
  /-- DEINTERLEAVE (R124). -/
  | deinterleave
  /-- INTERLEAVE (R125). -/
  | interleave
  /-- CHECKSUM (R137). -/
  | checksum
  /-- BUILD (R145). -/
  | build
  /-- ANALYZE (R170). -/
  | analyze
  deriving DecidableEq, Repr

end Sys2Proof
end

