-- ==== Sys2Proof/WellFormed.lean ====
section
/-! DEFINITION. WellFormed.lean: which terms of `Instr` a command word can spell. Format C (30_encoding.md R81) gives
the offset 16 bits and the argument 32; every other field is fixed by the constructor (R82). -/

namespace Sys2Proof

/-- The offset fits the 16-bit `ofs` field (R81). -/
abbrev ofsFits (ofs : Nat) : Prop := ofs < 2 ^ 16

/-- The length or value fits the 32-bit `arg` field (R81). -/
abbrev argFits (arg : Nat) : Prop := arg < 2 ^ 32

/-- A command that some command word spells (R81, R82). An `ofs` at or beyond BUF_LEN and a `value` wider than the
width of its SET pass (R83, R88). -/
def wellFormed : Instr → Bool
  | .getu8 _ ofs => decide (ofsFits ofs)
  | .getu16 _ ofs => decide (ofsFits ofs)
  | .getu24 _ ofs => decide (ofsFits ofs)
  | .gettext _ ofs len => decide (ofsFits ofs) && decide (argFits len)
  | .setu8 _ ofs value => decide (ofsFits ofs) && decide (argFits value)
  | .setu16 _ ofs value => decide (ofsFits ofs) && decide (argFits value)
  | .setu24 _ ofs value => decide (ofsFits ofs) && decide (argFits value)
  | .deinterleave => true
  | .interleave => true
  | .checksum => true
  | .build => true
  | .analyze => true

/-- The check as a proposition, for statements. -/
abbrev WellFormed (i : Instr) : Prop := wellFormed i = true

end Sys2Proof
end

