-- ==== Sys2Proof/Decode.lean ====
section
/-! DEFINITION. Decode.lean: command words to commands (30_encoding.md R81 to R90) and back. Decoding is total: every
64-bit word is one of the twelve commands or is rejected by name (R86). -/

namespace Sys2Proof

/-- Why a word, or a byte string, is no command (R86). -/
inductive Reject where
  /-- the `z` field is not zero -/
  | nonZeroZ (z : BitVec 7)
  /-- `op` is not in R84 -/
  | unknownOp (op : Byte)
  /-- the command takes no `arg` and the field is not zero -/
  | nonZeroArg (arg : Reg32)
  /-- the command takes no operand and `buf`, `ofs` or `arg` is not zero -/
  | nonZeroOperand (op : Byte)
  /-- a listing's command has exactly 8 bytes (R89) -/
  | notEightBytes (n : Nat)
  deriving DecidableEq, Repr

/-! ### Fields of format C (R81) -/

def Field.op (w : Command) : Byte := w.extractLsb' 0 8
def Field.buf (w : Command) : BitVec 1 := w.extractLsb' 8 1
def Field.z (w : Command) : BitVec 7 := w.extractLsb' 9 7
def Field.ofs (w : Command) : BitVec 16 := w.extractLsb' 16 16
def Field.arg (w : Command) : Reg32 := w.extractLsb' 32 32

/-- The buffer the `buf` bit selects (R81). -/
def Buf.ofBit (b : BitVec 1) : Buf := if b = 0 then .log else .phys

/-- The `buf` bit that selects a buffer (R81). -/
def Buf.bit : Buf → BitVec 1
  | .log => 0
  | .phys => 1

/-- A GET's operands: `arg` must be zero (R82, R90). -/
def decodeGet (mk : Buf → Nat → Instr) (w : Command) : Except Reject Instr :=
  if Field.arg w ≠ 0 then .error (.nonZeroArg (Field.arg w))
  else .ok (mk (Buf.ofBit (Field.buf w)) (Field.ofs w).toNat)

/-- The operands of GETTEXT and the SETs: all fields used (R82, R90). -/
def decodeArg (mk : Buf → Nat → Nat → Instr) (w : Command) : Except Reject Instr :=
  .ok (mk (Buf.ofBit (Field.buf w)) (Field.ofs w).toNat (Field.arg w).toNat)

/-- A command without operands: `buf`, `ofs` and `arg` must be zero (R82, R90). -/
def decodePlain (i : Instr) (w : Command) : Except Reject Instr :=
  if Field.buf w ≠ 0 ∨ Field.ofs w ≠ 0 ∨ Field.arg w ≠ 0 then .error (.nonZeroOperand (Field.op w))
  else .ok i

/-- `decode(w)` of R90. -/
def decode (w : Command) : Except Reject Instr :=
  if Field.z w ≠ 0 then .error (.nonZeroZ (Field.z w))
  else if Field.op w = 0x01 then decodeGet .getu8 w
  else if Field.op w = 0x02 then decodeGet .getu16 w
  else if Field.op w = 0x03 then decodeGet .getu24 w
  else if Field.op w = 0x04 then decodeArg .gettext w
  else if Field.op w = 0x11 then decodeArg .setu8 w
  else if Field.op w = 0x12 then decodeArg .setu16 w
  else if Field.op w = 0x13 then decodeArg .setu24 w
  else if Field.op w = 0x20 then decodePlain .deinterleave w
  else if Field.op w = 0x21 then decodePlain .interleave w
  else if Field.op w = 0x30 then decodePlain .checksum w
  else if Field.op w = 0x31 then decodePlain .build w
  else if Field.op w = 0x32 then decodePlain .analyze w
  else .error (.unknownOp (Field.op w))

/-- The word of format C with these fields and `z` = 0 (R81). -/
def formatC (op : Byte) (buf : BitVec 1) (ofs arg : Nat) : Command :=
  BitVec.ofNat 32 arg ++ (BitVec.ofNat 16 ofs ++ ((0 : BitVec 7) ++ (buf ++ op)))

/-- The word of a well-formed command (R81, R84, R85). -/
def encode : Instr → Command
  | .getu8 buf ofs => formatC 0x01 buf.bit ofs 0
  | .getu16 buf ofs => formatC 0x02 buf.bit ofs 0
  | .getu24 buf ofs => formatC 0x03 buf.bit ofs 0
  | .gettext buf ofs len => formatC 0x04 buf.bit ofs len
  | .setu8 buf ofs value => formatC 0x11 buf.bit ofs value
  | .setu16 buf ofs value => formatC 0x12 buf.bit ofs value
  | .setu24 buf ofs value => formatC 0x13 buf.bit ofs value
  | .deinterleave => formatC 0x20 0 0 0
  | .interleave => formatC 0x21 0 0 0
  | .checksum => formatC 0x30 0 0 0
  | .build => formatC 0x31 0 0 0
  | .analyze => formatC 0x32 0 0 0

/-! ### The mask and match table (R85) -/

/-- One row of R85: `w` is this command exactly when `w & mask = match`. -/
structure Row where
  mnemonic : String
  mask : Command
  pattern : Command
  deriving DecidableEq, Repr

/-- The twelve rows of R85. -/
def opcodeRows : List Row :=
  [ ⟨"GETU8", 0xFFFFFFFF0000FEFF, 0x0000000000000001⟩,
    ⟨"GETU16", 0xFFFFFFFF0000FEFF, 0x0000000000000002⟩,
    ⟨"GETU24", 0xFFFFFFFF0000FEFF, 0x0000000000000003⟩,
    ⟨"GETTEXT", 0x000000000000FEFF, 0x0000000000000004⟩,
    ⟨"SETU8", 0x000000000000FEFF, 0x0000000000000011⟩,
    ⟨"SETU16", 0x000000000000FEFF, 0x0000000000000012⟩,
    ⟨"SETU24", 0x000000000000FEFF, 0x0000000000000013⟩,
    ⟨"DEINTERLEAVE", 0xFFFFFFFFFFFFFFFF, 0x0000000000000020⟩,
    ⟨"INTERLEAVE", 0xFFFFFFFFFFFFFFFF, 0x0000000000000021⟩,
    ⟨"CHECKSUM", 0xFFFFFFFFFFFFFFFF, 0x0000000000000030⟩,
    ⟨"BUILD", 0xFFFFFFFFFFFFFFFF, 0x0000000000000031⟩,
    ⟨"ANALYZE", 0xFFFFFFFFFFFFFFFF, 0x0000000000000032⟩ ]

/-- A word matches a row (R85). -/
def Row.accepts (r : Row) (w : Command) : Bool := (w &&& r.mask) == r.pattern

/-- The mnemonic of a command (R84). -/
def mnemonic : Instr → String
  | .getu8 _ _ => "GETU8"
  | .getu16 _ _ => "GETU16"
  | .getu24 _ _ => "GETU24"
  | .gettext _ _ _ => "GETTEXT"
  | .setu8 _ _ _ => "SETU8"
  | .setu16 _ _ _ => "SETU16"
  | .setu24 _ _ _ => "SETU24"
  | .deinterleave => "DEINTERLEAVE"
  | .interleave => "INTERLEAVE"
  | .checksum => "CHECKSUM"
  | .build => "BUILD"
  | .analyze => "ANALYZE"

/-! ### Words in a listing (R89) -/

/-- The word that eight bytes spell, least significant first (R89). -/
def commandOfBytes : List Byte → Option Command
  | [b0, b1, b2, b3, b4, b5, b6, b7] =>
    some (b7 ++ (b6 ++ (b5 ++ (b4 ++ (b3 ++ (b2 ++ (b1 ++ b0)))))))
  | _ => none

/-- The eight bytes of a word, least significant first (R89). -/
def bytesOfCommand (w : Command) : List Byte :=
  (List.range 8).map fun k => w.extractLsb' (8 * k) 8

/-- Decoding of any byte string: eight bytes are a command word, anything else is rejected by name. -/
def decodeBytes (bs : List Byte) : Except Reject Instr :=
  match commandOfBytes bs with
  | some w => decode w
  | none => .error (.notEightBytes bs.length)

/-- The instruction the decoder reads from the table's numbering of bits: the low `nbits` bits of `w`, every bit above
them zero, taken as the 64-bit command word that the port takes whole (R89). -/
def decodeTableWord (nbits w : Nat) : Option Instr :=
  match decode (BitVec.ofNat 64 (w % 2 ^ nbits)) with
  | .ok i => some i
  | .error _ => none

end Sys2Proof
end

