-- ==== Sys2Proof/Machine/Report.lean ====
section
/-! DEFINITION. Report.lean: the structured results of ANALYZE and BUILD: the report (10_state.md R23), one entry record
(R24), the violation record (R20) and its kinds (60_exceptions.md R216). -/

namespace Sys2Proof.Machine

/-- The label of a partition kind (44_analyzer.md R183); `unknown` carries the whole typeAndFlags byte (D27). -/
inductive KindLabel where
  | clear
  | proDOS
  | dos33
  | pascal
  | cpm
  | unknown (raw : Byte)
  deriving DecidableEq, Repr, Inhabited

/-- One record of `REPORT.entries` (R24). -/
structure EntryRec where
  /-- position in the table -/
  index : Fin 16
  /-- first block, absolute -/
  start : BitVec 24
  /-- block count -/
  size : BitVec 16
  /-- the raw typeAndFlags byte -/
  typeFlags : Byte
  /-- `type_flags & 0x0F` -/
  kind : BitVec 4
  /-- the label of R183 -/
  kindLabel : KindLabel
  /-- bit 6 -/
  active : Bool
  /-- bit 7 -/
  locked : Bool
  /-- the stored bytes, high bits as found -/
  nameRaw : Vector Byte 10
  /-- GETTEXT's decoding of `nameRaw` -/
  nameText : Vector Char7 10
  /-- size in kilobytes, rounded half to even (R198) -/
  sizeKb : Nat
  deriving DecidableEq, Repr, Inhabited

/-- REPORT, the analyzer's decoded report (R23), in the order of the table there. -/
structure Report where
  /-- true when the last ANALYZE completed -/
  valid : Bool
  /-- field at 0x00 -/
  magic : BitVec 16
  /-- field at 0x02 -/
  checksumStored : BitVec 16
  /-- field at 0x04 -/
  driveType : Byte
  /-- field at 0x05 -/
  totalBlocks : BitVec 24
  /-- opaque byte at 0x08 -/
  rsv08 : Byte
  /-- field at 0x09 -/
  cylinders : BitVec 16
  /-- field at 0x0B -/
  heads : Byte
  /-- field at 0x0C -/
  sectors : Byte
  /-- field at 0x0D -/
  interleave : Byte
  /-- field at 0x0E, raw -/
  bootIndex : Byte
  /-- opaque bytes at 0x0F, 0x10 -/
  rsv0F : Vector Byte 2
  /-- bytes 0x11..0x14, raw -/
  activeSlots : Vector Byte 4
  /-- opaque bytes at 0x15..0xFF -/
  rsv15 : Vector Byte 235
  /-- decoded entries in index order -/
  entries : Vector EntryRec 16
  /-- sum of the 16 sizes -/
  partitionedBlocks : Nat
  /-- checksum of LOG[0..511] -/
  checksumComputed : BitVec 16
  /-- (total_blocks div heads) div sectors -/
  derivedCylinders : Nat
  /-- logical drive size in tenths of a megabyte -/
  logicalMbX10 : Nat
  /-- CHS-derived drive size in tenths of a megabyte -/
  nativeMbX10 : Nat
  deriving DecidableEq, Repr, Inhabited

/-- The kinds of violation (R216); R217 closes the list of warnings. -/
inductive ViolKind where
  | wContig
  | wChecksum
  | wTotal
  | wGeometry
  | wBuildTotal
  | fBadMagic
  | fTrailingNonZero
  deriving DecidableEq, Repr, Inhabited

/-- One record of VIOL (R20). What `expected` and `found` mean the kind fixes (R216). -/
structure Violation where
  kind : ViolKind
  fatal : Bool
  entry : Option (Fin 16)
  expected : Nat
  found : Nat
  deriving DecidableEq, Repr, Inhabited

/-- The entry record of a report that no analysis has written: all zero (DESIGN CHOICE, log entry 4; unsafe). -/
def EntryRec.blank (i : Fin 16) : EntryRec where
  index := i
  start := 0
  size := 0
  typeFlags := 0
  kind := 0
  kindLabel := .clear
  active := false
  locked := false
  nameRaw := Vector.replicate 10 0
  nameText := Vector.replicate 10 0
  sizeKb := 0

/-- REPORT at power-up: `valid` is false as R26 says; the other fields, which R26 leaves unspecified, are zero
(DESIGN CHOICE, log entry 4; unsafe). -/
def Report.blank : Report where
  valid := false
  magic := 0
  checksumStored := 0
  driveType := 0
  totalBlocks := 0
  rsv08 := 0
  cylinders := 0
  heads := 0
  sectors := 0
  interleave := 0
  bootIndex := 0
  rsv0F := Vector.replicate 2 0
  activeSlots := Vector.replicate 4 0
  rsv15 := Vector.replicate 235 0
  entries := Vector.ofFn EntryRec.blank
  partitionedBlocks := 0
  checksumComputed := 0
  derivedCylinders := 0
  logicalMbX10 := 0
  nativeMbX10 := 0

end Sys2Proof.Machine
end

