-- ==== Sys2Proof/Config.lean ====
section
/-! DEFINITION. Config.lean: the constants of the format (00_scope.md R4), the parameters an implementation fixes (R5),
and the free values: constants without a body, so that nothing can be proved of what they are. -/

namespace Sys2Proof

/-! ### Constants the source fixes (R4) -/

/-- BLOCK_LEN: bytes in a logical block and in a physical sector. -/
abbrev Config.blockLen : Nat := 512
/-- N_UNITS: two-byte units per sector. -/
abbrev Config.nUnits : Nat := 256
/-- MAGIC: value of the 16-bit field at offset 0x00. -/
abbrev Config.magic : Nat := 0xAEAE
/-- CKS_OFS: offset of the checksum field. -/
abbrev Config.cksOfs : Nat := 0x02
/-- HDR_LEN: bytes of header before the entry table. -/
abbrev Config.hdrLen : Nat := 0x100
/-- N_ENTRIES: partition entries. -/
abbrev Config.nEntries : Nat := 16
/-- ENTRY_LEN: bytes per entry. -/
abbrev Config.entryLen : Nat := 16
/-- ENTRY_BASE: offset of entry 0. -/
abbrev Config.entryBase : Nat := 0x100
/-- MAX_PART: maximum single-partition size in blocks; 65535 by 90_conflicts.md C7. -/
abbrev Config.maxPart : Nat := 0xFFFF
/-- POOL_GRANULE: MAX_PART + 1. -/
abbrev Config.poolGranule : Nat := 65536
/-- MAX_ACTIVE: maximum active-partition count. -/
abbrev Config.maxActive : Nat := 4
/-- UNUSED_SLOT: value of an unused active-slot byte. -/
abbrev Config.unusedSlot : Byte := 0xFF
/-- BOOT_DEFAULT: boot partition index the builder writes. -/
abbrev Config.bootDefault : Nat := 0
/-- FIRST_BLOCK: start of the first partition. -/
abbrev Config.firstBlock : Nat := 1
/-- NAME_LEN: bytes of an entry's name. -/
abbrev Config.nameLen : Nat := 10
/-- FLAG_ACTIVE: active bit of typeAndFlags. -/
abbrev Config.flagActive : Byte := 0x40
/-- FLAG_LOCKED: locked bit of typeAndFlags. -/
abbrev Config.flagLocked : Byte := 0x80
/-- KIND_MASK: low nibble of typeAndFlags. -/
abbrev Config.kindMask : Byte := 0x0F

/-! ### Values the spec leaves open -/

/-- RSVD (R5, D3): the byte the builder writes at a reserved offset. OPEN, without a default, so without a body
(log entry 2). -/
opaque Config.rsvd : Nat → Byte

/-- TEXT_PLACEHOLDER (R5, D4): OPEN, without a default, so without a body (log entry 2). -/
opaque Config.textPlaceholder : Char7

/-- The free byte at an offset, for one draw: PHYS after a failed load (R233), the data bytes of both buffers after
a host reset (R26). Log entries 5 and 6. -/
opaque Config.freeByte : Nat → Nat → Byte

/-- The free 32-bit value of a register, by draw and register number (R26). Log entry 5. -/
opaque Config.freeReg : Nat → Nat → Reg32

/-- The free character at a position of TXT, for one draw (R26). Log entry 5. -/
opaque Config.freeChar : Nat → Nat → Char7

/-- A free report for one draw: REPORT after a faulting ANALYZE (R203) or a host reset (R26), whose `valid` the
machine then sets to false. Log entries 5 and 6. -/
opaque Config.freeReport : Nat → Machine.Report

/-! ### The parameters of an implementation (R5) -/

/-- The parameters of R5 as one record, which State carries and no step changes, so that every statement about a state
is a statement about every implementation (log entry 1). RSVD is held as its three reserved regions. -/
structure Params where
  /-- BUF_LEN, 512 to 65536 -/
  bufLen : Nat
  /-- RSVD(0x08) -/
  rsvd08 : Byte
  /-- RSVD(0x0F), RSVD(0x10) -/
  rsvd0F : Vector Byte 2
  /-- RSVD(0x15) .. RSVD(0xFF) -/
  rsvd15 : Vector Byte 235
  /-- TEXT_PLACEHOLDER -/
  textPlaceholder : Char7
  /-- PRINT_LO -/
  printLo : Char7
  /-- PRINT_HI -/
  printHi : Char7
  /-- BLOCK_BYTES -/
  blockBytes : Nat
  /-- MB_BYTES -/
  mbBytes : Nat
  /-- KB_BYTES -/
  kbBytes : Nat
  deriving DecidableEq, Repr

/-- The constraints on the parameters: R5 bounds BUF_LEN, and R195's roundings divide by MB_BYTES and KB_BYTES. -/
abbrev Params.wf (p : Params) : Prop :=
  512 ≤ p.bufLen ∧ p.bufLen ≤ 65536 ∧ 0 < p.mbBytes ∧ 0 < p.kbBytes

/-- The parameters of the machine that `State.reset` describes: R5's defaults, and the open values of RSVD and
TEXT_PLACEHOLDER, which have none. -/
def Config.params : Params where
  bufLen := 512
  rsvd08 := Config.rsvd 0x08
  rsvd0F := Vector.ofFn fun i => Config.rsvd (0x0F + i)
  rsvd15 := Vector.ofFn fun i => Config.rsvd (0x15 + i)
  textPlaceholder := Config.textPlaceholder
  printLo := 0x20
  printHi := 0x7E
  blockBytes := 512
  mbBytes := 1048576
  kbBytes := 1024

end Sys2Proof
end

