-- ==== Sys2Proof/Machine/State.lean ====
section
/-! DEFINITION. State.lean: the state of the engine (10_state.md), the host actions that are its only steps
(60_exceptions.md R234), the reasons a step can stop, and the state right after reset (R26). -/

namespace Sys2Proof.Machine

/-- The bytes of one buffer: (offset, byte) pairs, offsets strictly rising, none zero. An unlisted offset reads as
`Mem.unlisted`. -/
abbrev Mem := List Host.Cell

/-- What an unlisted offset reads as. Padding starts zero by R26; for the 512 data bytes, which R26 leaves unspecified,
zero is the model's (DESIGN CHOICE, log entry 3; unsafe). -/
def Mem.unlisted : Byte := 0

/-- The causes of a fault (60_exceptions.md R210). Their codes are `Cause.code`. -/
inductive Cause where
  | outOfRange
  | paddingNonZero
  | indexOutOfRange
  | cursorMismatch
  | trailingNonZero
  | badMagic
  | ioFailure
  | illegalCommand
  deriving DecidableEq, Repr

/-- A host action: one atomic step (R234). -/
inductive HostAction where
  /-- HostLoad(data) (R231) -/
  | load (data : List Byte)
  /-- a HostLoad whose transfer fails (R233) -/
  | loadFails
  /-- HostStore() (R232) -/
  | store
  /-- a HostStore whose transfer fails (R233) -/
  | storeFails
  /-- HostWriteReg(n, v) (R16, R234) -/
  | writeReg (n : Nat) (v : Reg32)
  /-- HostReadReg(n) (R16, R234) -/
  | readReg (n : Nat)
  /-- HostReadResult() for TXT, REPORT and VIOL (R16, R234) -/
  | readResult
  /-- HostIssue(word) (R90, R234) -/
  | issue (word : Command)
  /-- HostReset() (R240) -/
  | reset
  deriving DecidableEq, Repr

/-- What the last host action gave back to the host. -/
inductive HostReply where
  /-- nothing: the action returns nothing, or was not performed -/
  | none
  /-- HostReadReg's value -/
  | reg (v : Reg32)
  /-- HostStore's BUF_LEN bytes -/
  | sector (bytes : List Byte)
  /-- HostReadResult's TXT, REPORT and VIOL -/
  | result (txt : List Char7) (report : Report) (viol : List Violation)
  deriving DecidableEq, Repr

/-- The whole state. The last four fields are the model's own. -/
structure State where
  /-- BUF_LEN, RSVD and the other parameters of R5; constant (log entry 1) -/
  par : Params
  /-- buffer PHYS (R10) -/
  phys : Mem
  /-- buffer LOG (R10) -/
  log : Mem
  /-- CFG_DTYPE (R14) -/
  cfgDtype : Reg32
  /-- CFG_TOTAL (R14) -/
  cfgTotal : Reg32
  /-- CFG_CYL (R14) -/
  cfgCyl : Reg32
  /-- CFG_HEADS (R14) -/
  cfgHeads : Reg32
  /-- CFG_SECT (R14) -/
  cfgSect : Reg32
  /-- CFG_ILV (R14) -/
  cfgIlv : Reg32
  /-- CFG_NFULL (R14) -/
  cfgNfull : Reg32
  /-- RES (R15) -/
  res : Reg32
  /-- TXT (R22) -/
  txt : List Char7
  /-- TXT_LEN (R16, R22) -/
  txtLen : Reg32
  /-- REPORT (R23) -/
  report : Report
  /-- VIOL (R20) -/
  viol : List Violation
  /-- VIOL_COUNT (R16, R20) -/
  violCount : BitVec 8
  /-- FAULT (R19): 0, or the code of the cause that halted the engine -/
  fault : BitVec 8
  /-- FAULT_INFO (R19) -/
  faultInfo : Reg32
  /-- the host actions still to come, in the host's order (model's own, log entry 7) -/
  inbox : List HostAction
  /-- what the last host action gave back (model's own, log entry 7) -/
  reply : HostReply
  /-- how many draws of free values have been taken (model's own, log entries 5 and 6) -/
  draws : Nat
  deriving DecidableEq, Repr

/-- The reasons a step ends in `fault`. A fault of the hardware (R210) is none of these: its entry is a next state
(R223). -/
inductive Fault where
  /-- The host hands HostLoad a number of bytes other than BUF_LEN, raised by `hostLoad`: R231 defines the action for
  exactly BUF_LEN bytes. Safe: the model stops where the spec gives the action no meaning (log entry 8). -/
  | hostLoadLength
  deriving DecidableEq, Repr

/-- The reasons a step ends in `refused`. -/
inductive Refusal where
  /-- An instruction without a meaning in the model. No arm of `exec` raises it. Safe. -/
  | notModelled (mnemonic : String)
  /-- BUILD with CFG_NFULL = 0, raised by `execBuild`: `refuse(BuilderCountZero)` of R148, R227. Safe. -/
  | builderCountZero
  /-- ANALYZE of a block with magic 0xAEAE, clean trailing space and a head or sector count of 0, raised by
  `execAnalyze`: `refuse(ZeroDivisor)` of R194, R227. Safe. -/
  | zeroDivisor
  deriving DecidableEq, Repr

/-- The machine right after reset (R26, R241). What R26 specifies: FAULT, FAULT_INFO, VIOL, VIOL_COUNT, REPORT.valid and
the padding of both buffers. What it leaves unspecified is zero or empty here (DESIGN CHOICE, log entries 3 and 4;
unsafe). The host has asked for nothing yet (R242). -/
def State.reset : State where
  par := Config.params
  phys := []
  log := []
  cfgDtype := 0
  cfgTotal := 0
  cfgCyl := 0
  cfgHeads := 0
  cfgSect := 0
  cfgIlv := 0
  cfgNfull := 0
  res := 0
  txt := []
  txtLen := 0
  report := Report.blank
  viol := []
  violCount := 0
  fault := 0
  faultInfo := 0
  inbox := []
  reply := .none
  draws := 0

end Sys2Proof.Machine
end

