-- ==== Sys2Proof/Machine/Ops.lean ====
section
/-! DEFINITION. Ops.lean: the named operations over buffers and registers: byte order and multi-byte access (20_memory.md
R40, R41), the register port (10_state.md R16), FAULT ENTRY (60_exceptions.md R223) and, beside it, the only way back
from it, reset (R226, R240, R241). -/

namespace Sys2Proof.Machine

/-- The outcome of one step of this machine. -/
abbrev Out := Host.Outcome State Fault Refusal

/-! ### One buffer -/

/-- `B[a]`: the byte at an offset. -/
def Mem.read : Mem → Nat → Byte
  | [], _ => Mem.unlisted
  | (b, v) :: m, a => if a = b then v else Mem.read m a

/-- The cells that list these bytes from offset `a` on: those that differ from what an unlisted offset reads as. -/
def Mem.cells : Nat → List Byte → Mem
  | _, [] => []
  | a, v :: vs => if v = Mem.unlisted then Mem.cells (a + 1) vs else (a, v) :: Mem.cells (a + 1) vs

/-- Store bytes at consecutive offsets from `a` on; every other offset keeps its byte. The one way a buffer changes. -/
def Mem.splice (m : Mem) (a : Nat) (vs : List Byte) : Mem :=
  m.filter (fun c => decide (c.1 < a)) ++ Mem.cells a vs ++ m.filter (fun c => decide (a + vs.length ≤ c.1))

/-- The `n` bytes from offset `a` on, in order. -/
def Mem.bytesAt (m : Mem) (a n : Nat) : List Byte :=
  (List.range n).map fun k => m.read (a + k)

/-- The canonical form: offsets strictly rising, no entry equal to what an unlisted offset reads as. -/
abbrev Mem.wf (m : Mem) : Prop :=
  m.Pairwise (fun x y => x.1 < y.1) ∧ ∀ c ∈ m, c.2 ≠ Mem.unlisted

/-- Every listed offset is below `n`. -/
abbrev Mem.within (m : Mem) (n : Nat) : Prop := ∀ c ∈ m, c.1 < n

/-- The lowest offset `k` with `lo ≤ k < hi` whose byte is not zero. -/
def Mem.firstNonZero (m : Mem) (lo hi : Nat) : Option Nat :=
  (List.range' lo (hi - lo)).find? fun k => m.read k != 0

/-! ### Byte order (R40, R41): byte `k` has weight `2^(8k)` -/

/-- The natural that bytes spell, least significant first (R40). -/
def littleEndian : List Byte → Nat
  | [] => 0
  | v :: vs => v.toNat + 256 * littleEndian vs

/-- The low `n` bytes of a natural, least significant first: `trunc_(8n)` and the split into bytes (R41). -/
def toLittleEndian : Nat → Nat → List Byte
  | 0, _ => []
  | n + 1, v => BitVec.ofNat 8 v :: toLittleEndian n (v / 256)

/-- `MemRead(B, ofs, n)` after its range test (R40). -/
def memRead (m : Mem) (ofs n : Nat) : Nat := littleEndian (m.bytesAt ofs n)

/-- `MemWrite(B, ofs, n, v)` after its range test (R41). -/
def memWrite (m : Mem) (ofs n v : Nat) : Mem := m.splice ofs (toLittleEndian n v)

/-! ### Faults -/

/-- The code of a cause in FAULT (R210). -/
def Cause.code : Cause → BitVec 8
  | .outOfRange => 1
  | .paddingNonZero => 2
  | .indexOutOfRange => 3
  | .cursorMismatch => 4
  | .trailingNonZero => 5
  | .badMagic => 6
  | .ioFailure => 7
  | .illegalCommand => 8

/-- The engine is halted exactly when FAULT is not 0 (R19). -/
def State.halted (s : State) : Bool := s.fault != 0

/-- FAULT ENTRY (R223): FAULT takes the cause's code and FAULT_INFO its value, which halts the engine; nothing else
changes. What ANALYZE writes besides (R225) it writes itself. -/
def State.faultEntry (s : State) (c : Cause) (info : Reg32) : State :=
  { s with fault := c.code, faultInfo := info }

/-- The data bytes of a buffer after a host reset: any value (R26), one draw of free bytes, padding zero. -/
def freeBlock (draw : Nat) : Mem :=
  Mem.splice [] 0 ((List.range Config.blockLen).map (Config.freeByte draw))

/-- TXT after a host reset: any text (R26); R22 makes TXT_LEN its length. -/
def freeText (draw : Nat) (len : Reg32) : List Char7 :=
  (List.range len.toNat).map (Config.freeChar draw)

/-- RESET as a host action (R240, R241), the only way out of the halted state (R226). R26 gives FAULT, FAULT_INFO, VIOL,
VIOL_COUNT, REPORT.valid and the padding; all else becomes unspecified: free values of two new draws (log entry 5).
The parameters and the host's own list of actions are not engine state and stay. -/
def State.hostReset (s : State) : State :=
  { State.reset with
    par := s.par
    phys := freeBlock s.draws
    log := freeBlock (s.draws + 1)
    cfgDtype := Config.freeReg s.draws 0x00
    cfgTotal := Config.freeReg s.draws 0x01
    cfgCyl := Config.freeReg s.draws 0x02
    cfgHeads := Config.freeReg s.draws 0x03
    cfgSect := Config.freeReg s.draws 0x04
    cfgIlv := Config.freeReg s.draws 0x05
    cfgNfull := Config.freeReg s.draws 0x06
    res := Config.freeReg s.draws 0x08
    txt := freeText s.draws (Config.freeReg s.draws 0x0C)
    txtLen := Config.freeReg s.draws 0x0C
    report := { Config.freeReport s.draws with valid := false }
    inbox := s.inbox
    draws := s.draws + 2 }

/-! ### Violations (R20, R216) -/

/-- The code of a violation kind in a VIOL record (R216). -/
def ViolKind.code : ViolKind → Nat
  | .wContig => 1
  | .wChecksum => 2
  | .wTotal => 3
  | .wGeometry => 4
  | .wBuildTotal => 5
  | .fBadMagic => 16
  | .fTrailingNonZero => 17

/-- Whether a kind is fatal (R216). -/
def ViolKind.isFatal : ViolKind → Bool
  | .wContig => false
  | .wChecksum => false
  | .wTotal => false
  | .wGeometry => false
  | .wBuildTotal => false
  | .fBadMagic => true
  | .fTrailingNonZero => true

/-- A violation record; whether it is fatal its kind decides (R216). -/
def violation (k : ViolKind) (entry : Option (Fin 16)) (expected found : Nat) : Violation :=
  ⟨k, k.isFatal, entry, expected, found⟩

/-! ### Register writes the commands make (R17) -/

/-- RES <- v. -/
def State.withRes (s : State) (v : Nat) : State := { s with res := BitVec.ofNat 32 v }

/-- TXT <- t; TXT_LEN <- its length (R104). -/
def State.withText (s : State) (t : List Char7) : State :=
  { s with txt := t, txtLen := BitVec.ofNat 32 t.length }

/-- VIOL <- vs; VIOL_COUNT <- its length (R20). -/
def State.withViol (s : State) (vs : List Violation) : State :=
  { s with viol := vs, violCount := BitVec.ofNat 8 vs.length }

/-- LOG <- m. -/
def State.withLog (s : State) (m : Mem) : State := { s with log := m }

/-- PHYS <- m. -/
def State.withPhys (s : State) (m : Mem) : State := { s with phys := m }

/-- REPORT <- r. -/
def State.withReport (s : State) (r : Report) : State := { s with report := r }

/-- REPORT after a faulting ANALYZE (R203): `valid` is false, every other field unspecified, one draw of a free
report (log entry 6). -/
def State.withReportInvalid (s : State) : State :=
  { s with report := { Config.freeReport s.draws with valid := false }, draws := s.draws + 1 }

/-! ### The register port (R16) -/

/-- The value HostReadReg gives: the register's value, zero for a number not in the table of R16. -/
def State.readRegister (s : State) (n : Nat) : Reg32 :=
  if n = 0x00 then s.cfgDtype
  else if n = 0x01 then s.cfgTotal
  else if n = 0x02 then s.cfgCyl
  else if n = 0x03 then s.cfgHeads
  else if n = 0x04 then s.cfgSect
  else if n = 0x05 then s.cfgIlv
  else if n = 0x06 then s.cfgNfull
  else if n = 0x08 then s.res
  else if n = 0x09 then s.fault.setWidth 32
  else if n = 0x0A then s.faultInfo
  else if n = 0x0B then s.violCount.setWidth 32
  else if n = 0x0C then s.txtLen
  else 0

/-- HostWriteReg: only the seven configuration registers take a value; a read-only or unlisted number has no effect. -/
def State.writeRegister (s : State) (n : Nat) (v : Reg32) : State :=
  if n = 0x00 then { s with cfgDtype := v }
  else if n = 0x01 then { s with cfgTotal := v }
  else if n = 0x02 then { s with cfgCyl := v }
  else if n = 0x03 then { s with cfgHeads := v }
  else if n = 0x04 then { s with cfgSect := v }
  else if n = 0x05 then { s with cfgIlv := v }
  else if n = 0x06 then { s with cfgNfull := v }
  else s

/-! ### The host's side -/

/-- Take one host action off the list: `rest` is what is still to come, and nothing has been given back yet. -/
def State.accept (s : State) (rest : List HostAction) : State := { s with inbox := rest, reply := .none }

/-- Give the host something back. -/
def State.withReply (s : State) (r : HostReply) : State := { s with reply := r }

end Sys2Proof.Machine
end

