-- ==== Sys2Proof/Machine/Checksum.lean ====
section
/-! DEFINITION. Checksum.lean: the checksum engine and CHECKSUM (42_checksum.md). -/

namespace Sys2Proof.Machine

/-- The loop body of R136 for the pair at `i`: the checksum field's own pair takes no part. -/
def checksumPair (m : Mem) (acc : Byte × Byte) (i : Nat) : Byte × Byte :=
  if i = Config.cksOfs then acc else (acc.1 ^^^ m.read i, acc.2 ^^^ m.read (i + 1))

/-- The two accumulators after the pairs at i = 0, 2, 4, .., 510 (R136). -/
def checksumPairs (m : Mem) : Byte × Byte :=
  ((List.range 256).map (2 * ·)).foldl (checksumPair m) (0, 0)

/-- `Checksum(B) = (a1 << 8) | a0` (R136). -/
def checksum (m : Mem) : BitVec 16 := (checksumPairs m).2 ++ (checksumPairs m).1

/-- CHECKSUM: `RES <- zext_32(Checksum(LOG))`, nothing else (R137). -/
def execChecksum (s : State) : Out := .next (s.withRes (checksum s.log).toNat)

end Sys2Proof.Machine
end

