-- ==== Sys2Proof/Machine/Flags.lean ====
section
/-! DEFINITION. Flags.lean: the flags of this hardware. There are no condition codes (10_state.md R21); the one flags byte
is an entry's typeAndFlags (20_memory.md R62), read by ANALYZE (44_analyzer.md R180 to R183) and written by BUILD
(43_builder.md R157). -/

namespace Sys2Proof.Machine

/-- `kind <- type_flags & 0x0F` (R181). -/
def flagsKind (tf : Byte) : BitVec 4 := (tf &&& Config.kindMask).setWidth 4

/-- `active <- (type_flags & 0x40) != 0` (R180). -/
def flagsActive (tf : Byte) : Bool := (tf &&& Config.flagActive) != 0

/-- `locked <- (type_flags & 0x80) != 0` (R180). -/
def flagsLocked (tf : Byte) : Bool := (tf &&& Config.flagLocked) != 0

/-- The label of the low nibble; outside 0..4 it carries the whole byte (R183). -/
def flagsLabel (tf : Byte) : KindLabel :=
  if flagsKind tf = 0 then .clear
  else if flagsKind tf = 1 then .proDOS
  else if flagsKind tf = 2 then .dos33
  else if flagsKind tf = 3 then .pascal
  else if flagsKind tf = 4 then .cpm
  else .unknown tf

/-- The byte BUILD writes for slot `i` of size `size`: active when (index is 0 or size is the maximum) and the index is
below the active limit, else clear (R157). -/
def builtFlags (i size : Nat) : Byte :=
  if (i = 0 ∨ size = Config.maxPart) ∧ i < Config.maxActive then Config.flagActive else 0

end Sys2Proof.Machine
end

