-- ==== Sys2Proof/Machine/Layout.lean ====
section
/-! DEFINITION. Layout.lean: the address map of the logical block as one declarative table (20_memory.md R46, R60, R61),
which the builder and the analyzer both use. -/

namespace Sys2Proof.Machine

/-- A field: its offset (in the block, or in an entry) and its width in bytes. -/
structure FieldSpec where
  ofs : Nat
  width : Nat
  deriving DecidableEq, Repr

/-! ### The header (R46) -/

def hdrMagic : FieldSpec := ⟨0x00, 2⟩
def hdrChecksum : FieldSpec := ⟨0x02, 2⟩
def hdrDriveType : FieldSpec := ⟨0x04, 1⟩
def hdrTotal : FieldSpec := ⟨0x05, 3⟩
def hdrRsv08 : FieldSpec := ⟨0x08, 1⟩
def hdrCylinders : FieldSpec := ⟨0x09, 2⟩
def hdrHeads : FieldSpec := ⟨0x0B, 1⟩
def hdrSectors : FieldSpec := ⟨0x0C, 1⟩
def hdrInterleave : FieldSpec := ⟨0x0D, 1⟩
def hdrBoot : FieldSpec := ⟨0x0E, 1⟩
def hdrRsv0F : FieldSpec := ⟨0x0F, 2⟩
def hdrSlots : FieldSpec := ⟨0x11, 4⟩
def hdrRsv15 : FieldSpec := ⟨0x15, 235⟩

/-- The header's fields in offset order (R46). -/
def headerFields : List FieldSpec :=
  [hdrMagic, hdrChecksum, hdrDriveType, hdrTotal, hdrRsv08, hdrCylinders, hdrHeads, hdrSectors, hdrInterleave, hdrBoot,
    hdrRsv0F, hdrSlots, hdrRsv15]

/-! ### An entry (R60, R61) -/

/-- `E(i) = 0x100 + 16*i` (R60). -/
def entryOfs (i : Nat) : Nat := Config.entryBase + Config.entryLen * i

def entStart : FieldSpec := ⟨0, 3⟩
def entSize : FieldSpec := ⟨3, 2⟩
def entFlags : FieldSpec := ⟨5, 1⟩
def entName : FieldSpec := ⟨6, 10⟩

/-- An entry's fields in offset order (R61). -/
def entryFields : List FieldSpec := [entStart, entSize, entFlags, entName]

/-- The cursor's walk over fields in order (R171): it answers the cursor after the last field when every field starts
where the cursor stands, and nothing otherwise. -/
def walkCursor : Nat → List FieldSpec → Option Nat
  | cur, [] => some cur
  | cur, f :: fs => if f.ofs = cur then walkCursor (cur + f.width) fs else none

/-- The field moved to entry `i`. -/
def FieldSpec.inEntry (f : FieldSpec) (i : Nat) : FieldSpec := ⟨entryOfs i + f.ofs, f.width⟩

/-- The value of a field of a block: `MemRead` at its offset and width. -/
def FieldSpec.get (f : FieldSpec) (m : Mem) : Nat := memRead m f.ofs f.width

/-- A block with a value stored in a field: `MemWrite` at its offset and width. -/
def FieldSpec.put (f : FieldSpec) (m : Mem) (v : Nat) : Mem := memWrite m f.ofs f.width v

end Sys2Proof.Machine
end

