-- ==== Sys2Proof/Machine/Operands.lean ====
section
/-! DEFINITION. Operands.lean: the operand forms of the ByteCodec commands: buffer select (30_encoding.md R81), the range
test (40_bytecodec.md R110), and sanitised text (R104, R105). -/

namespace Sys2Proof.Machine

/-- The buffer a `buf` operand selects (R81). -/
def State.buffer (s : State) : Buf → Mem
  | .log => s.log
  | .phys => s.phys

/-- Replace the selected buffer. -/
def State.withBuffer (s : State) : Buf → Mem → State
  | .log, m => s.withLog m
  | .phys, m => s.withPhys m

/-- The range test of R110, before every access of the command: `ofs + n > BUF_LEN` over naturals raises
OutOfRange(ofs), and nothing else happens. -/
def checked (ofs n : Nat) (s : State) (access : State → State) : Out :=
  if s.par.bufLen < ofs + n then .next (s.faultEntry .outOfRange (BitVec.ofNat 32 ofs)) else .next (access s)

/-- A GET of `n` bytes: `RES <- zext_32(MemRead(B, ofs, n))` (R101 to R103). -/
def getField (n : Nat) (buf : Buf) (ofs : Nat) (s : State) : Out :=
  checked ofs n s fun s => s.withRes (memRead (s.buffer buf) ofs n)

/-- A SET of `n` bytes: `MemWrite(B, ofs, n, arg)` (R106 to R108). -/
def setField (n : Nat) (buf : Buf) (ofs value : Nat) (s : State) : Out :=
  checked ofs n s fun s => s.withBuffer buf (memWrite (s.buffer buf) ofs n value)

/-- `printable(c)` (R105). -/
def printable (p : Params) (c : Char7) : Bool := decide (p.printLo ≤ c) && decide (c ≤ p.printHi)

/-- One character of GETTEXT: the high bit stripped, the placeholder for what is not printable (R104). -/
def sanitize (p : Params) (b : Byte) : Char7 :=
  if printable p (b.setWidth 7) then b.setWidth 7 else p.textPlaceholder

/-- `GetText(B, ofs, len)` after its range test (R104). -/
def getText (p : Params) (m : Mem) (ofs len : Nat) : List Char7 := (m.bytesAt ofs len).map (sanitize p)

end Sys2Proof.Machine
end

