-- ==== Sys2Proof/Machine/Analyzer.lean ====
section
/-! DEFINITION. Analyzer.lean: the partition-table validator, ANALYZE (44_analyzer.md), in the order of R206. -/

namespace Sys2Proof.Machine

/-- `RHU(a, b)`: a/b rounded half up (R195). -/
def roundHalfUp (a b : Nat) : Nat := (2 * a + b) / (2 * b)

/-- `RHE(a, b)`: a/b rounded half to even (R195). -/
def roundHalfEven (a b : Nat) : Nat :=
  if 2 * (a % b) < b then a / b
  else if b < 2 * (a % b) then a / b + 1
  else if a / b % 2 = 0 then a / b
  else a / b + 1

/-- Entry `i` decoded (R179 to R184, R198). -/
def entryRecord (p : Params) (m : Mem) (i : Fin 16) : EntryRec where
  index := i
  start := BitVec.ofNat 24 ((entStart.inEntry i).get m)
  size := BitVec.ofNat 16 ((entSize.inEntry i).get m)
  typeFlags := m.read (entFlags.inEntry i).ofs
  kind := flagsKind (m.read (entFlags.inEntry i).ofs)
  kindLabel := flagsLabel (m.read (entFlags.inEntry i).ofs)
  active := flagsActive (m.read (entFlags.inEntry i).ofs)
  locked := flagsLocked (m.read (entFlags.inEntry i).ofs)
  nameRaw := Vector.ofFn fun k => m.read ((entName.inEntry i).ofs + k)
  nameText := Vector.ofFn fun k => sanitize p (m.read ((entName.inEntry i).ofs + k))
  sizeKb := roundHalfEven ((entSize.inEntry i).get m * p.blockBytes) p.kbBytes

/-- The 16 entries in index order. -/
def entryRecords (p : Params) (m : Mem) : Vector EntryRec 16 := Vector.ofFn (entryRecord p m)

/-- The contiguity warnings, the block cursor standing at `bc` before the first of these entries; it advances by each
entry's size (R185, R186, 90_conflicts.md C2). -/
def contigWarnings : Nat → List EntryRec → List Violation
  | _, [] => []
  | bc, e :: es =>
    (if e.start.toNat ≠ bc then [violation .wContig (some e.index) bc e.start.toNat] else []) ++
      contigWarnings (bc + e.size.toNat) es

/-- The sum of the entries' sizes (R187). -/
def sizeSum : List EntryRec → Nat
  | [] => 0
  | e :: es => e.size.toNat + sizeSum es

/-- `(total_blocks div heads) div sectors` (R193). -/
def derivedCylinders (m : Mem) : Nat := hdrTotal.get m / hdrHeads.get m / hdrSectors.get m

/-- The report of a completed ANALYZE (R203, R23). -/
def analyzeReport (p : Params) (m : Mem) : Report where
  valid := true
  magic := BitVec.ofNat 16 (hdrMagic.get m)
  checksumStored := BitVec.ofNat 16 (hdrChecksum.get m)
  driveType := BitVec.ofNat 8 (hdrDriveType.get m)
  totalBlocks := BitVec.ofNat 24 (hdrTotal.get m)
  rsv08 := m.read hdrRsv08.ofs
  cylinders := BitVec.ofNat 16 (hdrCylinders.get m)
  heads := BitVec.ofNat 8 (hdrHeads.get m)
  sectors := BitVec.ofNat 8 (hdrSectors.get m)
  interleave := BitVec.ofNat 8 (hdrInterleave.get m)
  bootIndex := BitVec.ofNat 8 (hdrBoot.get m)
  rsv0F := Vector.ofFn fun k => m.read (hdrRsv0F.ofs + k)
  activeSlots := Vector.ofFn fun k => m.read (hdrSlots.ofs + k)
  rsv15 := Vector.ofFn fun k => m.read (hdrRsv15.ofs + k)
  entries := entryRecords p m
  partitionedBlocks := sizeSum (entryRecords p m).toList
  checksumComputed := checksum m
  derivedCylinders := derivedCylinders m
  logicalMbX10 := roundHalfUp (hdrTotal.get m * p.blockBytes * 10) p.mbBytes
  nativeMbX10 :=
    roundHalfUp (hdrCylinders.get m * hdrHeads.get m * hdrSectors.get m * p.blockBytes * 10) p.mbBytes

/-- W_CHECKSUM (R190). -/
def checksumWarnings (m : Mem) : List Violation :=
  if hdrChecksum.get m ≠ (checksum m).toNat then
    [violation .wChecksum none (checksum m).toNat (hdrChecksum.get m)]
  else []

/-- W_TOTAL (R191). -/
def totalWarnings (p : Params) (m : Mem) : List Violation :=
  if 1 + sizeSum (entryRecords p m).toList ≠ hdrTotal.get m then
    [violation .wTotal none (1 + sizeSum (entryRecords p m).toList) (hdrTotal.get m)]
  else []

/-- W_GEOMETRY (R192). -/
def geometryWarnings (m : Mem) : List Violation :=
  if hdrCylinders.get m < derivedCylinders m then
    [violation .wGeometry none (derivedCylinders m) (hdrCylinders.get m)]
  else []

/-- The violation list of a completed ANALYZE, in the order of R200. -/
def analyzeWarnings (p : Params) (m : Mem) : List Violation :=
  contigWarnings Config.firstBlock (entryRecords p m).toList ++ checksumWarnings m ++ totalWarnings p m ++
    geometryWarnings m

/-- A faulting ANALYZE (R203, R225): REPORT invalid, VIOL the one fatal record, and fault entry. -/
def analyzeFault (s : State) (c : Cause) (info : Nat) (v : Violation) : Out :=
  .next ((s.withReportInvalid.withViol [v]).faultEntry c (BitVec.ofNat 32 info))

/-- ANALYZE (R170, R202, R206): BadMagic, then TrailingNonZero, then the refusal of a zero divisor (R194), then the
commit of R203. -/
def execAnalyze (s : State) : Out :=
  if hdrMagic.get s.log ≠ Config.magic then
    analyzeFault s .badMagic (hdrMagic.get s.log) (violation .fBadMagic none Config.magic (hdrMagic.get s.log))
  else
    match s.log.firstNonZero Config.blockLen s.par.bufLen with
    | some k => analyzeFault s .trailingNonZero k (violation .fTrailingNonZero none 0 (s.log.read k).toNat)
    | none =>
      if hdrHeads.get s.log = 0 ∨ hdrSectors.get s.log = 0 then .refused .zeroDivisor
      else .next ((s.withReport (analyzeReport s.par s.log)).withViol (analyzeWarnings s.par s.log))

end Sys2Proof.Machine
end

