-- ==== Sys2Proof/Machine/Builder.lean ====
section
/-! DEFINITION. Builder.lean: the partition-table synthesizer, BUILD (43_builder.md), step by step as R149 to R160. -/

namespace Sys2Proof.Machine

/-- The reserved offsets: 0x08, 0x0F, 0x10 and 0x15..0xFF (R151). -/
def reservedOfs : List Nat := [0x08, 0x0F, 0x10] ++ List.range' 0x15 235

/-- The byte the format wants at a reserved offset: RSVD(k) (R151). No rule asks for it at another offset. -/
def rsvdAt (p : Params) (k : Nat) : Byte :=
  if k = 0x08 then p.rsvd08
  else if k < 0x15 then p.rsvd0F.toList.getD (k - 0x0F) 0
  else p.rsvd15.toList.getD (k - 0x15) 0

/-- Steps 1 to 5 (R149 to R153): the zeroed block, the magic, the reserved bytes, the header's scalars, the
active-slot table. Bytes from offset 512 on are those of `log`. -/
def buildHeader (s : State) (log : Mem) : Mem :=
  let m := log.splice 0 (List.replicate Config.blockLen 0)
  let m := hdrMagic.put m Config.magic
  let m := m.splice hdrRsv08.ofs [rsvdAt s.par 0x08]
  let m := m.splice hdrRsv0F.ofs [rsvdAt s.par 0x0F, rsvdAt s.par 0x10]
  let m := m.splice hdrRsv15.ofs ((List.range hdrRsv15.width).map fun k => rsvdAt s.par (0x15 + k))
  let m := hdrDriveType.put m s.cfgDtype.toNat
  let m := hdrTotal.put m s.cfgTotal.toNat
  let m := hdrCylinders.put m s.cfgCyl.toNat
  let m := hdrHeads.put m s.cfgHeads.toNat
  let m := hdrSectors.put m s.cfgSect.toNat
  let m := hdrInterleave.put m s.cfgIlv.toNat
  let m := hdrBoot.put m Config.bootDefault
  m.splice hdrSlots.ofs (List.replicate hdrSlots.width Config.unusedSlot)

/-- `pool0 = (MAX_PART + 1) * CFG_NFULL - 1` (R154). -/
def pool0 (nfull : Nat) : Nat := Config.poolGranule * nfull - 1

/-- One slot of step 6: where it starts and how many blocks it has. -/
structure Slot where
  start : Nat
  size : Nat
  deriving DecidableEq, Repr

/-- The next `n` slots, given the pool and the running start (R155, R156). -/
def buildSlots : Nat → Nat → Nat → List Slot
  | 0, _, _ => []
  | n + 1, pool, start =>
    ⟨start, min pool Config.maxPart⟩ ::
      buildSlots n (pool - min pool Config.maxPart) (start + min pool Config.maxPart)

/-- The sixteen slots: the pool of R154, starting at block 1. -/
def slotsFor (nfull : Nat) : List Slot := buildSlots Config.nEntries (pool0 nfull) Config.firstBlock

/-- A decimal numeral without leading zeros, as ASCII codes, for numbers below 100 (R158). -/
def decimal (n : Nat) : List Byte :=
  if n < 10 then [BitVec.ofNat 8 (0x30 + n)] else [BitVec.ofNat 8 (0x30 + n / 10), BitVec.ofNat 8 (0x30 + n % 10)]

/-- The name of slot `i`: the first 10 characters of "AE" and the index plus one, right-padded with spaces (R158). -/
def slotText (i : Nat) : List Byte :=
  ([0x41, 0x45] ++ decimal (i + 1) ++ List.replicate Config.nameLen 0x20).take Config.nameLen

/-- Its bytes: each character with the high bit forced set (R63, R158). -/
def slotName (i : Nat) : List Byte := (slotText i).map (· ||| 0x80)

/-- Step 6 for slot `i` (R156 to R158). -/
def writeSlot (m : Mem) (i : Nat) (slot : Slot) : Mem :=
  let m := (entStart.inEntry i).put m slot.start
  let m := (entSize.inEntry i).put m slot.size
  let m := m.splice (entFlags.inEntry i).ofs [builtFlags i slot.size]
  m.splice (entName.inEntry i).ofs (slotName i)

/-- Step 6 for slots `i`, `i+1`, .. (R155 to R158). -/
def writeSlots : Mem → Nat → List Slot → Mem
  | m, _, [] => m
  | m, i, slot :: slots => writeSlots (writeSlot m i slot) (i + 1) slots

/-- Step 7: the checksum of the block into its field (R159). -/
def writeChecksum (m : Mem) : Mem := hdrChecksum.put m (checksum m).toNat

/-- LOG after BUILD: steps 1 to 7 (R164). -/
def buildTable (s : State) : Mem :=
  writeChecksum (writeSlots (buildHeader s s.log) 0 (slotsFor s.cfgNfull.toNat))

/-- The builder's warning (R160): the untruncated CFG_TOTAL against the pool plus the reserved block. -/
def buildWarnings (s : State) : List Violation :=
  if s.cfgTotal.toNat ≠ pool0 s.cfgNfull.toNat + 1 then
    [violation .wBuildTotal none (pool0 s.cfgNfull.toNat + 1) s.cfgTotal.toNat]
  else []

/-- BUILD (R145, R148, R164). -/
def execBuild (s : State) : Out :=
  if s.cfgNfull = 0 then .refused .builderCountZero
  else .next ((s.withLog (buildTable s)).withViol (buildWarnings s))

end Sys2Proof.Machine
end

