-- ==== Sys2Proof/Machine/ByteCodec.lean ====
section
/-! DEFINITION. ByteCodec.lean: GETU8, GETU16, GETU24, GETTEXT, SETU8, SETU16, SETU24 (40_bytecodec.md). -/

namespace Sys2Proof.Machine

/-- GETU8 (R101). -/
def execGetu8 (buf : Buf) (ofs : Nat) (s : State) : Out := getField 1 buf ofs s

/-- GETU16 (R102). -/
def execGetu16 (buf : Buf) (ofs : Nat) (s : State) : Out := getField 2 buf ofs s

/-- GETU24 (R103). -/
def execGetu24 (buf : Buf) (ofs : Nat) (s : State) : Out := getField 3 buf ofs s

/-- GETTEXT (R104): `TXT <- GetText(B, ofs, len); TXT_LEN <- len`. -/
def execGettext (buf : Buf) (ofs len : Nat) (s : State) : Out :=
  checked ofs len s fun s => s.withText (getText s.par (s.buffer buf) ofs len)

/-- SETU8 (R106). -/
def execSetu8 (buf : Buf) (ofs value : Nat) (s : State) : Out := setField 1 buf ofs value s

/-- SETU16 (R107). -/
def execSetu16 (buf : Buf) (ofs value : Nat) (s : State) : Out := setField 2 buf ofs value s

/-- SETU24 (R108). -/
def execSetu24 (buf : Buf) (ofs value : Nat) (s : State) : Out := setField 3 buf ofs value s

end Sys2Proof.Machine
end

