-- ==== Sys2Proof/Machine/Interleave.lean ====
section
/-! DEFINITION. Interleave.lean: the sector interleave codec, DEINTERLEAVE and INTERLEAVE (41_interleave.md). -/

namespace Sys2Proof.Machine

/-- `J(u) = 2*(u div 2) + 256*(u mod 2)`: the logical offset of physical unit `u` (R121). -/
def unitOfs (u : Nat) : Nat := 2 * (u / 2) + 256 * (u % 2)

/-- `L(p) = 2n + 256r + b` for `p = 4n + 2r + b`: the logical offset of a physical byte (R122). -/
def logicalOf (p : Nat) : Nat := 2 * (p / 4) + 256 * (p / 2 % 2) + p % 2

/-- `P(l) = (l[7:1] << 2) | (l[8] << 1) | l[0]`: the physical offset of a logical byte (R122). -/
def physicalOf (l : Nat) : Nat := 4 * (l % 256 / 2) + 2 * (l / 256) + l % 2

/-- The padding check (R123): the lowest offending offset of the source, else that of the destination with bit 16
set; nothing when both are clean. -/
def paddingFault (src dst : Mem) (bufLen : Nat) : Option Reg32 :=
  match src.firstNonZero Config.blockLen bufLen with
  | some k => some (BitVec.ofNat 32 k)
  | none => (dst.firstNonZero Config.blockLen bufLen).map fun k => BitVec.ofNat 32 (0x10000 ||| k)

/-- The logical block of a physical sector, `LOG[l] <- PHYS[P(l)]` for every l (R124). -/
def deinterleaved (phys : Mem) : List Byte :=
  (List.range Config.blockLen).map fun l => phys.read (physicalOf l)

/-- The physical sector of a logical block, `PHYS[2u] <- LOG[j]; PHYS[2u+1] <- LOG[j+1]` for u = 0..255 (R125). -/
def interleaved (log : Mem) : List Byte :=
  (List.range Config.nUnits).flatMap fun u => [log.read (unitOfs u), log.read (unitOfs u + 1)]

/-- DEINTERLEAVE (R124). -/
def execDeinterleave (s : State) : Out :=
  match paddingFault s.phys s.log s.par.bufLen with
  | some info => .next (s.faultEntry .paddingNonZero info)
  | none => .next (s.withLog (s.log.splice 0 (deinterleaved s.phys)))

/-- INTERLEAVE (R125). -/
def execInterleave (s : State) : Out :=
  match paddingFault s.log s.phys s.par.bufLen with
  | some info => .next (s.faultEntry .paddingNonZero info)
  | none => .next (s.withPhys (s.phys.splice 0 (interleaved s.log)))

end Sys2Proof.Machine
end

