-- ==== Sys2Proof/Machine/Dispatch.lean ====
section
/-! DEFINITION. Dispatch.lean: one arm per command, each one direct call of its meaning. -/

namespace Sys2Proof.Machine

/-- The command's effect on an engine that executes it. The command port runs it only when the engine is not halted
(`hostIssue`, 30_encoding.md R90, 60_exceptions.md R224). -/
def exec (i : Instr) (s : State) : Host.Outcome State Fault Refusal :=
  match i with
  | .getu8 buf ofs => Sys2Proof.Machine.execGetu8 buf ofs s
  | .getu16 buf ofs => Sys2Proof.Machine.execGetu16 buf ofs s
  | .getu24 buf ofs => Sys2Proof.Machine.execGetu24 buf ofs s
  | .gettext buf ofs len => Sys2Proof.Machine.execGettext buf ofs len s
  | .setu8 buf ofs value => Sys2Proof.Machine.execSetu8 buf ofs value s
  | .setu16 buf ofs value => Sys2Proof.Machine.execSetu16 buf ofs value s
  | .setu24 buf ofs value => Sys2Proof.Machine.execSetu24 buf ofs value s
  | .deinterleave => Sys2Proof.Machine.execDeinterleave s
  | .interleave => Sys2Proof.Machine.execInterleave s
  | .checksum => Sys2Proof.Machine.execChecksum s
  | .build => Sys2Proof.Machine.execBuild s
  | .analyze => Sys2Proof.Machine.execAnalyze s

end Sys2Proof.Machine
end

