-- ==== Sys2Proof/Machine/Port.lean ====
section
/-! DEFINITION. Port.lean: the host actions (60_exceptions.md R231 to R234, R240), each one atomic step. A halted engine
performs none of load, store, register write and command; host reads and reset work (R224). -/

namespace Sys2Proof.Machine

/-- Perform an action only on an engine that is not halted; a halted one changes no state (R224). -/
def ifRunning (s : State) (act : State → Out) : Out := if s.halted then .next s else act s

/-- HostLoad(data): `PHYS[k] <- data[k]` for every k below BUF_LEN (R231). The padding is not looked at. -/
def hostLoad (data : List Byte) (s : State) : Out :=
  ifRunning s fun s =>
    if data.length = s.par.bufLen then .next (s.withPhys (s.phys.splice 0 data)) else .fault .hostLoadLength

/-- PHYS after a failed load: every byte unspecified, one draw of free bytes (R233, log entry 6). -/
def freePhys (s : State) : Mem :=
  s.phys.splice 0 ((List.range s.par.bufLen).map (Config.freeByte s.draws))

/-- A load that fails (R233): PHYS unspecified, FAULT = 7, FAULT_INFO = 0, halted. -/
def hostLoadFails (s : State) : Out :=
  ifRunning s fun s => .next (({ s with draws := s.draws + 1 }.withPhys (freePhys s)).faultEntry .ioFailure 0)

/-- HostStore(): the BUF_LEN bytes of PHYS go to the host, no state of the engine changes (R232). -/
def hostStore (s : State) : Out :=
  ifRunning s fun s => .next (s.withReply (.sector (s.phys.bytesAt 0 s.par.bufLen)))

/-- A store that fails (R233): FAULT = 7, FAULT_INFO = 0, halted. -/
def hostStoreFails (s : State) : Out := ifRunning s fun s => .next (s.faultEntry .ioFailure 0)

/-- HostWriteReg(n, v) (R16, R224, R234). -/
def hostWriteReg (n : Nat) (v : Reg32) (s : State) : Out := ifRunning s fun s => .next (s.writeRegister n v)

/-- HostReadReg(n) (R16, R224, R234). -/
def hostReadReg (n : Nat) (s : State) : Out := .next (s.withReply (.reg (s.readRegister n)))

/-- HostReadResult() (R16, R224, R234). -/
def hostReadResult (s : State) : Out := .next (s.withReply (.result s.txt s.report s.viol))

/-- HostIssue(word) (R220, R234): a halted engine does not even decode; an illegal word raises IllegalCommand with the
low 32 bits of the word (R86, R215); a command runs to completion. -/
def hostIssue (w : Command) (s : State) : Out :=
  ifRunning s fun s =>
    match decode w with
    | .ok i => exec i s
    | .error _ => .next (s.faultEntry .illegalCommand (w.setWidth 32))

/-- One host action. -/
def hostAct (a : HostAction) (s : State) : Out :=
  match a with
  | .load data => hostLoad data s
  | .loadFails => hostLoadFails s
  | .store => hostStore s
  | .storeFails => hostStoreFails s
  | .writeReg n v => hostWriteReg n v s
  | .readReg n => hostReadReg n s
  | .readResult => hostReadResult s
  | .issue w => hostIssue w s
  | .reset => .next s.hostReset

/-- The next host action, if the host has one; else the engine waits and nothing changes (R242). -/
def nextAction (s : State) : Out :=
  match s.inbox with
  | [] => .next s
  | a :: rest => hostAct a (s.accept rest)

/-- The host's list of actions with the issue of this word in front: the low `nbits` bits of `w`, every bit above
them zero. -/
def issueFirst (nbits w : Nat) (inbox : List HostAction) : List HostAction :=
  .issue (BitVec.ofNat 64 (w % 2 ^ nbits)) :: inbox

end Sys2Proof.Machine
end

