-- ==== Sys2Proof/Machine/Step.lean ====
section
/-! DEFINITION. Step.lean: one step is one host action (60_exceptions.md R234), and where the next command comes from:
the host's list of actions, since there is no program counter and no fetch (10_state.md R18). -/

namespace Sys2Proof.Machine

/-- One step of the machine. -/
def step (s : State) : Host.Outcome State Fault Refusal := nextAction s

/-- The state in which the host's next action is to issue this word (log entry 7). -/
def State.withFetchWord (s : State) (nbits w : Nat) : State := { s with inbox := issueFirst nbits w s.inbox }

end Sys2Proof.Machine
end

