-- ==== Sys2Proof/Machine/Listing.lean ====
section
/-! DEFINITION. Listing.lean: the assembler syntax of a listing (30_encoding.md R94 to R96): a line of text to the host
actions it stands for, and a command to its line. A line is a list of characters. -/

namespace Sys2Proof.Machine

/-! ### Words of a line -/

/-- Leading and trailing spaces dropped. -/
def trim (cs : List Char) : List Char :=
  ((cs.dropWhile (· == ' ')).reverse.dropWhile (· == ' ')).reverse

/-- The pieces between occurrences of a character. -/
def pieces (sep : Char) : List Char → List (List Char)
  | [] => [[]]
  | c :: cs =>
    if c = sep then [] :: pieces sep cs
    else
      match pieces sep cs with
      | [] => [[c]]
      | p :: ps => (c :: p) :: ps

/-- A line without its comment: a `;` starts one (R94). -/
def withoutComment (cs : List Char) : List Char := cs.takeWhile (· != ';')

/-! ### Numbers: decimal or `0x` hexadecimal (R94) -/

/-- The value of a digit character in base 16. -/
def digitValue (c : Char) : Option Nat :=
  if '0' ≤ c ∧ c ≤ '9' then some (c.toNat - 48)
  else if 'A' ≤ c ∧ c ≤ 'F' then some (c.toNat - 55)
  else if 'a' ≤ c ∧ c ≤ 'f' then some (c.toNat - 87)
  else none

/-- The number that digits spell in a base, most significant first, after the digits already read. -/
def digitsValue (base : Nat) : Nat → List Char → Option Nat
  | acc, [] => some acc
  | acc, c :: cs =>
    match digitValue c with
    | some d => if d < base then digitsValue base (base * acc + d) cs else none
    | none => none

/-- A number of a listing. -/
def parseNumber : List Char → Option Nat
  | [] => none
  | '0' :: 'x' :: c :: cs => digitsValue 16 0 (c :: cs)
  | c :: cs => digitsValue 10 0 (c :: cs)

/-- The number of a listing in decimal. -/
def showNumber (n : Nat) : List Char := (Nat.repr n).toList

/-! ### Commands (R94) -/

/-- `LOG` or `PHYS`. -/
def parseBuf (cs : List Char) : Option Buf :=
  if cs = "LOG".toList then some .log else if cs = "PHYS".toList then some .phys else none

def showBuf : Buf → List Char
  | .log => "LOG".toList
  | .phys => "PHYS".toList

/-- The command of a mnemonic and its operands. -/
def parseCommand (name : List Char) (operands : List (List Char)) : Option Instr :=
  match operands with
  | [] =>
    if name = "DEINTERLEAVE".toList then some .deinterleave
    else if name = "INTERLEAVE".toList then some .interleave
    else if name = "CHECKSUM".toList then some .checksum
    else if name = "BUILD".toList then some .build
    else if name = "ANALYZE".toList then some .analyze
    else none
  | [b, o] =>
    match parseBuf b, parseNumber o with
    | some buf, some ofs =>
      if name = "GETU8".toList then some (.getu8 buf ofs)
      else if name = "GETU16".toList then some (.getu16 buf ofs)
      else if name = "GETU24".toList then some (.getu24 buf ofs)
      else none
    | _, _ => none
  | [b, o, a] =>
    match parseBuf b, parseNumber o, parseNumber a with
    | some buf, some ofs, some arg =>
      if name = "GETTEXT".toList then some (.gettext buf ofs arg)
      else if name = "SETU8".toList then some (.setu8 buf ofs arg)
      else if name = "SETU16".toList then some (.setu16 buf ofs arg)
      else if name = "SETU24".toList then some (.setu24 buf ofs arg)
      else none
    | _, _, _ => none
  | _ => none

/-- The mnemonic or directive of a line, up to the first space, and its operands between commas. -/
def splitLine (cs : List Char) : List Char × List (List Char) :=
  let body := trim (withoutComment cs)
  let rest := trim (body.dropWhile (· != ' '))
  (body.takeWhile (· != ' '), if rest = [] then [] else (pieces ',' rest).map trim)

/-- Assemble a command line to its command; operands that no command word can hold are refused (R81). -/
def assemble (cs : List Char) : Option Instr :=
  match parseCommand (splitLine cs).1 (splitLine cs).2 with
  | some i => if wellFormed i then some i else none
  | none => none

/-- The line of a command (R94). -/
def disassemble (i : Instr) : List Char :=
  let two (b : Buf) (o : Nat) := (mnemonic i).toList ++ ' ' :: showBuf b ++ ',' :: ' ' :: showNumber o
  let three (b : Buf) (o a : Nat) := two b o ++ ',' :: ' ' :: showNumber a
  match i with
  | .getu8 b o => two b o
  | .getu16 b o => two b o
  | .getu24 b o => two b o
  | .gettext b o a => three b o a
  | .setu8 b o a => three b o a
  | .setu16 b o a => three b o a
  | .setu24 b o a => three b o a
  | .deinterleave => (mnemonic i).toList
  | .interleave => (mnemonic i).toList
  | .checksum => (mnemonic i).toList
  | .build => (mnemonic i).toList
  | .analyze => (mnemonic i).toList

/-! ### Host directives (R95) -/

/-- The configuration registers by the names `.cfg` uses, without the `CFG_` prefix (R95). -/
def cfgNames : List (List Char × Nat) :=
  [("DTYPE".toList, 0x00), ("TOTAL".toList, 0x01), ("CYL".toList, 0x02), ("HEADS".toList, 0x03),
    ("SECT".toList, 0x04), ("ILV".toList, 0x05), ("NFULL".toList, 0x06)]

/-- The registers by their names in R16. -/
def registerNames : List (List Char × Nat) :=
  cfgNames.map (fun c => ("CFG_".toList ++ c.1, c.2)) ++
    [("RES".toList, 0x08), ("FAULT".toList, 0x09), ("FAULT_INFO".toList, 0x0A), ("VIOL_COUNT".toList, 0x0B),
      ("TXT_LEN".toList, 0x0C)]

/-- The read that `.read NAME` stands for: a register or a structured result (R95). -/
def readAction (name : List Char) : Option HostAction :=
  match registerNames.lookup name with
  | some n => some (.readReg n)
  | none =>
    if name = "TXT".toList ∨ name = "REPORT".toList ∨ name = "VIOL".toList then some .readResult else none

/-- `.cfg NAME = value` (R95). -/
def cfgAction (operand : List Char) : Option HostAction :=
  match (pieces '=' operand).map trim with
  | [name, value] =>
    match cfgNames.lookup name, parseNumber value with
    | some n, some v => some (.writeReg n (BitVec.ofNat 32 v))
    | _, _ => none
  | _ => none

/-- `.word N`: the issue of a raw word, legal or not. 95_test_vectors.md P6 writes it so and R95 does not name it: what the
line stands for, and that a number of more than 64 bits has no reading, are the model's (DESIGN CHOICE, log entry 18). -/
def wordAction (operand : List Char) : Option HostAction :=
  match parseNumber operand with
  | some w => if w < 2 ^ 64 then some (.issue (BitVec.ofNat 64 w)) else none
  | none => none

/-- The host actions of one line, given the byte images that `.load` may name. A comment or an empty line is none,
and so is a `.read` without a name, of which R95 says nothing (DESIGN CHOICE, log entry 18); `.read` takes several names
(95_test_vectors.md P1). -/
def lineActions (images : List (List Char × List Byte)) (cs : List Char) : Option (List HostAction) :=
  match splitLine cs with
  | ([], _) => some []
  | (name, operands) =>
    if name = ".reset".toList then if operands = [] then some [.reset] else none
    else if name = ".store".toList then if operands = [] then some [.store] else none
    else if name = ".cfg".toList then
      match operands with
      | [o] => (cfgAction o).map ([·])
      | _ => none
    else if name = ".load".toList then
      match operands with
      | [o] => (images.lookup o).map fun data => [.load data]
      | _ => none
    else if name = ".word".toList then
      match operands with
      | [o] => (wordAction o).map ([·])
      | _ => none
    else if name = ".read".toList then operands.mapM readAction
    else (assemble cs).map fun i => [.issue (encode i)]

/-- *Refresh the checksum* (R96): CHECKSUM, a read of RES, and the store of the value the host then holds. -/
def refreshChecksum (value : Nat) : List HostAction :=
  [.issue (encode .checksum), .readReg 0x08, .issue (encode (.setu16 .log hdrChecksum.ofs value))]

end Sys2Proof.Machine
end

