-- ==== Sys2Proof/Safety.lean ====
section
/-! DEFINITION. Safety.lean: the words the statements use: what a sound state is (the invariant of this machine), clean
padding, and what the reset of R26 promises. -/

namespace Sys2Proof.Machine

/-- The causes that can occur (60_exceptions.md R210, R213): all but the two assertions. -/
def Cause.canOccur : List Cause :=
  [.outOfRange, .paddingNonZero, .trailingNonZero, .badMagic, .ioFailure, .illegalCommand]

/-- The engine is not halted (R19). -/
abbrev State.running (s : State) : Prop := s.fault = 0

/-- The offset of a buffer's padding: 512 and up, below BUF_LEN (10_state.md R11). -/
abbrev inPadding (s : State) (k : Nat) : Prop := 512 ≤ k ∧ k < s.par.bufLen

/-- Every padding byte of a buffer is zero (20_memory.md R64.6). -/
def cleanPadding (s : State) (m : Mem) : Prop := ∀ k, inPadding s k → m.read k = 0

/-- `k` is the lowest offending offset of a buffer's padding. -/
def firstDirty (s : State) (m : Mem) (k : Nat) : Prop :=
  inPadding s k ∧ m.read k ≠ 0 ∧ ∀ j, 512 ≤ j → j < k → m.read j = 0

/-- What every state of a run satisfies, and every step keeps. -/
structure State.Inv (s : State) : Prop where
  /-- the parameters are those of an implementation (R5) -/
  params : s.par.wf
  /-- PHYS is in canonical form -/
  physWf : s.phys.wf
  /-- LOG is in canonical form -/
  logWf : s.log.wf
  /-- PHYS has offsets 0..BUF_LEN-1 only (R10) -/
  physWithin : s.phys.within s.par.bufLen
  /-- LOG has offsets 0..BUF_LEN-1 only (R10) -/
  logWithin : s.log.within s.par.bufLen
  /-- VIOL_COUNT is the length of VIOL (R20) -/
  violCount : s.violCount.toNat = s.viol.length
  /-- TXT is a list of TXT_LEN characters (R22); across a host reset the model's choice (log entry 16) -/
  txtLen : s.txtLen.toNat = s.txt.length
  /-- FAULT is 0 or the code of a cause that can occur (R19, R210, R213) -/
  cause : s.fault = 0 ∨ ∃ c ∈ Cause.canOccur, s.fault = c.code
  /-- FAULT_INFO is 0 while the engine runs (R19, R26) -/
  infoZero : s.fault = 0 → s.faultInfo = 0
  /-- a record is fatal as its kind says (R216) -/
  fatalKind : ∀ v ∈ s.viol, v.fatal = v.kind.isFatal
  /-- a fatal record stands in VIOL only with the fault that put it there (R216, R225) -/
  fatalHalts : (∃ v ∈ s.viol, v.fatal = true) → s.fault = Cause.trailingNonZero.code ∨ s.fault = Cause.badMagic.code
  /-- a valid report is that of a table of this format (R172, R203) -/
  validMagic : s.report.valid = true → s.report.magic = 0xAEAE

/-- What R26 promises of a state right after reset; it promises nothing of the rest. -/
structure State.AfterReset (s : State) : Prop where
  fault : s.fault = 0
  faultInfo : s.faultInfo = 0
  viol : s.viol = []
  violCount : s.violCount = 0
  reportInvalid : s.report.valid = false
  physPadding : ∀ k, 512 ≤ k → s.phys.read k = 0
  logPadding : ∀ k, 512 ≤ k → s.log.read k = 0

/-- The seven configuration registers and the parameters of `t` are those of `s` (R14: no command writes them). -/
abbrev sameConfig (s t : State) : Prop :=
  t.par = s.par ∧ t.cfgDtype = s.cfgDtype ∧ t.cfgTotal = s.cfgTotal ∧ t.cfgCyl = s.cfgCyl ∧ t.cfgHeads = s.cfgHeads ∧
    t.cfgSect = s.cfgSect ∧ t.cfgIlv = s.cfgIlv ∧ t.cfgNfull = s.cfgNfull

/-- Every byte of both buffers of `t` reads as in `s`. -/
abbrev sameBytes (s t : State) : Prop := ∀ b a, (t.buffer b).read a = (s.buffer b).read a

/-- The exclusive or of the bytes at these offsets. -/
def xorAt (m : Mem) (offsets : List Nat) : Byte := offsets.foldr (fun a x => m.read a ^^^ x) 0

/-- The even offsets of a block that take part in the checksum: 0, 4, 6, .., 510 (42_checksum.md R136). -/
def evenColumn : List Nat := ((List.range 256).filter (· ≠ 1)).map (2 * ·)

/-- The odd offsets that take part: 1, 5, 7, .., 511 (R136). -/
def oddColumn : List Nat := evenColumn.map (· + 1)

/-- The sum of the size fields of entries 0 .. i-1 of a block (44_analyzer.md R186). -/
def sizesBefore (m : Mem) : Nat → Nat
  | 0 => 0
  | i + 1 => sizesBefore m i + (entSize.inEntry i).get m

/-- The block cursor before entry `i`: `1 + size_0 + ... + size_(i-1)` (R186). -/
def cursorBefore (m : Mem) (i : Nat) : Nat := 1 + sizesBefore m i

/-- The size of slot `i` of a table built with CFG_NFULL = n, by the closed forms of 43_builder.md R162. -/
def closedSize (n i : Nat) : Nat := if 16 ≤ n ∨ i < n then 65535 else if i = n then n - 1 else 0

/-- The start of slot `i` of a table built with CFG_NFULL = n, by the closed forms of R162. -/
def closedStart (n i : Nat) : Nat := if 16 ≤ n ∨ i ≤ n then 1 + 65535 * i else 65536 * n

/-- The ten name bytes of slot `i` as R158 writes them out: C1 C5, the decimal digits of i+1 as B0..B9, and A0 to the
end. -/
def closedName (i : Nat) : List Byte :=
  if i < 9 then [0xC1, 0xC5, BitVec.ofNat 8 (0xB1 + i)] ++ List.replicate 7 0xA0
  else [0xC1, 0xC5, 0xB1, BitVec.ofNat 8 (0xB0 + (i - 9))] ++ List.replicate 6 0xA0

/-- A block that ANALYZE completes on (44_analyzer.md R202): magic, clean trailing space, no zero divisor. -/
abbrev analyzable (s : State) : Prop :=
  memRead s.log 0x00 2 = 0xAEAE ∧ cleanPadding s s.log ∧ s.log.read 0x0B ≠ 0 ∧ s.log.read 0x0C ≠ 0

/-- `q` is the rational a/b rounded half up to a natural (R195). -/
abbrev roundedHalfUp (a b q : Nat) : Prop := 2 * b * q ≤ 2 * a + b ∧ 2 * a + b < 2 * b * (q + 1)

/-- `q` is the rational a/b rounded to the nearest natural, an exact half to the even neighbour (R195). -/
abbrev roundedHalfEven (a b q : Nat) : Prop :=
  2 * a ≤ 2 * b * q + b ∧ 2 * b * q ≤ 2 * a + b ∧ (2 * a = 2 * b * q + b ∨ 2 * b * q = 2 * a + b → q % 2 = 0)

end Sys2Proof.Machine
end

