-- ==== Sys2Proof/Certificates/Slice0/Obligations.lean ====
section
/-! DEFINITION. Obligations.lean: what is claimed of the machine, for the provers. Each docstring names the rules of spec/
that the statement rests on. -/

open Sys2Proof Sys2Proof.Machine

/-! ### Encoding -/

/-- Every well-formed command decodes from its own word (30_encoding.md R81 to R85, R90). -/
def Obligations.DecodeEncodeAllCommands : Prop :=
  ∀ i : Instr, WellFormed i → decode (encode i) = .ok i

/-- Every word that decodes is the one word of a well-formed command: no stray bit is accepted (R82, R86, R87). -/
def Obligations.DecodedWordIsTheEncoding : Prop :=
  ∀ (w : Command) (i : Instr), decode w = .ok i → WellFormed i ∧ encode i = w

/-- R85: a word is command X exactly when `w & mask(X) = match(X)`, and no two rows match the same word. -/
def Obligations.MaskTableDecidesTheCommand : Prop :=
  (∀ (w : Command), ∀ r ∈ opcodeRows,
      r.accepts w = true ↔ ∃ i, decode w = .ok i ∧ mnemonic i = r.mnemonic) ∧
    ∀ (w : Command), ∀ r ∈ opcodeRows, ∀ r' ∈ opcodeRows, r.accepts w = true → r'.accepts w = true → r = r'

/-- R86, R215: every word is a command or matches no row of R85, and it matches none exactly when `z` is not zero, `op` is
not in R84, or an unused field is not zero; issuing such a word raises IllegalCommand with its low 32 bits, and changes
nothing else. -/
def Obligations.IllegalWordRaisesIllegalCommand : Prop :=
  (∀ w : Command, (∃ i, decode w = .ok i) ↔ ¬∀ r ∈ opcodeRows, r.accepts w = false) ∧
    (∀ w : Command, (∀ r ∈ opcodeRows, r.accepts w = false) ↔
      Field.z w ≠ 0 ∨
        Field.op w ∉ ([0x01, 0x02, 0x03, 0x04, 0x11, 0x12, 0x13, 0x20, 0x21, 0x30, 0x31, 0x32] : List Byte) ∨
        (Field.op w ∈ ([0x01, 0x02, 0x03] : List Byte) ∧ Field.arg w ≠ 0) ∨
        (Field.op w ∈ ([0x20, 0x21, 0x30, 0x31, 0x32] : List Byte) ∧
          (Field.buf w ≠ 0 ∨ Field.ofs w ≠ 0 ∨ Field.arg w ≠ 0))) ∧
    ∀ (s : State) (w : Command) (rest : List HostAction),
      s.running → s.inbox = .issue w :: rest → (∀ r ∈ opcodeRows, r.accepts w = false) →
        step s = .next { s with inbox := rest, reply := .none, fault := 8, faultInfo := w.setWidth 32 }

/-- Words written out from R81 and R84 (the examples of R94) decode to the commands they stand for, and none of the ten
illegal words of V1 decodes to a command. The reason each is rejected for is the model's own name for it (the model's
choice, log entry 17); R86 knows one outcome for them all. -/
def Obligations.WrittenWordsDecode : Prop :=
  decode 0x0000000001FF0101 = .ok (.getu8 .phys 0x1FF) ∧ decode 0x0000000000000002 = .ok (.getu16 .log 0) ∧
    decode 0x0000000000050003 = .ok (.getu24 .log 5) ∧ decode 0x0000000A01060004 = .ok (.gettext .log 0x106 10) ∧
    decode 0x00000000000E0011 = .ok (.setu8 .log 0x0E 0) ∧ decode 0x0000D67600020012 = .ok (.setu16 .log 2 0xD676) ∧
    decode 0x0002FFFF01300013 = .ok (.setu24 .log 0x130 0x02FFFF) ∧ decode 0x20 = .ok .deinterleave ∧
    decode 0x21 = .ok .interleave ∧ decode 0x30 = .ok .checksum ∧ decode 0x31 = .ok .build ∧
    decode 0x32 = .ok .analyze ∧ decode 0x00 = .error (.unknownOp 0x00) ∧ decode 0x05 = .error (.unknownOp 0x05) ∧
    decode 0x14 = .error (.unknownOp 0x14) ∧ decode 0x33 = .error (.unknownOp 0x33) ∧
    decode 0x201 = .error (.nonZeroZ 1) ∧ decode 0x100000001 = .error (.nonZeroArg 1) ∧
    decode 0x120 = .error (.nonZeroOperand 0x20) ∧ decode 0x10032 = .error (.nonZeroOperand 0x32) ∧
    decode 0x100000031 = .error (.nonZeroOperand 0x31) ∧ decode 0x103000001 = .error (.nonZeroArg 1)

/-- R89: a word written as bytes is 8 bytes, least significant first. -/
def Obligations.ListedBytesSpellTheWord : Prop :=
  (∀ w : Command, (bytesOfCommand w).length = 8 ∧ commandOfBytes (bytesOfCommand w) = some w ∧
      decodeBytes (bytesOfCommand w) = decode w ∧
      ∀ k, k < 8 → (bytesOfCommand w).getD k 0 = BitVec.ofNat 8 (w.toNat / 256 ^ k)) ∧
    bytesOfCommand 0x0000000001FF0101 = [0x01, 0x01, 0xFF, 0x01, 0, 0, 0, 0]

/-! ### Steps, reset and the halted state -/

/-- R18, R90, R234: when the host's next action is to issue a word that decodes to a command, a step of an engine that
is not halted is that command's effect, the action taken off the host's list and the reply cleared. -/
def Obligations.StepRunsTheDecodedCommand : Prop :=
  (∀ (s : State) (w : Command) (rest : List HostAction) (i : Instr),
      s.running → s.inbox = .issue w :: rest → decode w = .ok i →
        step s = exec i { s with inbox := rest, reply := .none }) ∧
    ∀ (s : State) (w : Nat) (i : Instr),
      s.running → decodeTableWord 64 w = some i → step (s.withFetchWord 64 w) = exec i { s with reply := .none }

/-- R242: the engine waits for the host's first action. With no action to come a step changes nothing. -/
def Obligations.EngineWaitsForTheHost : Prop :=
  ∀ s : State, s.inbox = [] → step s = .next s

/-- R26, R241: what reset leaves, of the fields that the spec gives a value. -/
def Obligations.ResetLeavesTheSpecifiedValues : Prop :=
  State.AfterReset State.reset ∧ State.reset.halted = false

/-- R226, R240, R241: a host reset works from every state, halted or not, and leaves what R26 specifies; the host's
remaining actions stay. -/
def Obligations.HostResetFromEveryState : Prop :=
  ∀ (s : State) (rest : List HostAction), s.inbox = .reset :: rest →
    ∃ t, step s = .next t ∧ t.AfterReset ∧ t.par = s.par ∧ t.inbox = rest

/-- The reset state satisfies the invariant. That TXT_LEN is the length of TXT there, and what the unspecified fields hold,
is the model's choice (log entries 3 and 4). -/
def Obligations.ResetStateIsSound : Prop :=
  State.Inv State.reset

/-- Every step keeps the invariant, from every state that has it: canonical buffers within BUF_LEN (R10), VIOL_COUNT
the length of VIOL (R20), TXT_LEN the length of TXT, a legal cause (R210, R213), fatal records only with their fault
(R225), and a valid report only of a table with the right magic (R172). Across a host reset, where R26 leaves TXT and
TXT_LEN unspecified, the clause on TXT_LEN is the model's choice (log entry 16); that MB_BYTES and KB_BYTES are
positive, part of the clause on the parameters, is the model's too (log entry 15). -/
def Obligations.EveryStepKeepsTheInvariant : Prop :=
  ∀ s t : State, s.Inv → step s = .next t → t.Inv

/-- R5: no step changes a parameter of the implementation. -/
def Obligations.StepKeepsTheParameters : Prop :=
  ∀ s t : State, step s = .next t → t.par = s.par

/-- R224: while FAULT is not 0, a command, a load, a store (failing or not) and a register write change no state; host
reads work and return the state as the fault left it. -/
def Obligations.HaltedEngineIgnoresTheHost : Prop :=
  ∀ (s : State) (a : HostAction) (rest : List HostAction), s.fault ≠ 0 → s.inbox = a :: rest →
    (∀ n, a = .readReg n → step s = .next { s with inbox := rest, reply := .reg (s.readRegister n) }) ∧
      (a = .readResult → step s = .next { s with inbox := rest, reply := .result s.txt s.report s.viol }) ∧
      ((∀ n, a ≠ .readReg n) → a ≠ .readResult → a ≠ .reset → step s = .next { s with inbox := rest, reply := .none })

/-- R19, R224, R226: over any number of steps without a reset among the host's actions, a halted engine keeps all its
state, FAULT and FAULT_INFO included; only the host's list and the replies move on. -/
def Obligations.HaltedUntilReset : Prop :=
  ∀ (k : Nat) (s : State), s.fault ≠ 0 → HostAction.reset ∉ s.inbox →
    ∃ t : State, Host.Core.run Sys2Proof.core k s = .next t ∧ t = { s with inbox := t.inbox, reply := t.reply }

/-! ### The host's port -/

/-- R16: what each register number reads as, halted or not; a number not in the table reads as zero. That a read of the
8-bit FAULT or VIOL_COUNT gives zero in the upper 24 bits is the model's choice (log entry 22), and so is that a register
number is any natural (log entry 19). -/
def Obligations.RegisterReadsByNumber : Prop :=
  ∀ (s : State) (n : Nat) (rest : List HostAction), s.inbox = .readReg n :: rest →
    ∃ v, step s = .next { s with inbox := rest, reply := .reg v } ∧
      (n = 0x00 → v = s.cfgDtype) ∧ (n = 0x01 → v = s.cfgTotal) ∧ (n = 0x02 → v = s.cfgCyl) ∧
      (n = 0x03 → v = s.cfgHeads) ∧ (n = 0x04 → v = s.cfgSect) ∧ (n = 0x05 → v = s.cfgIlv) ∧
      (n = 0x06 → v = s.cfgNfull) ∧ (n = 0x08 → v = s.res) ∧ (n = 0x09 → v.toNat = s.fault.toNat) ∧
      (n = 0x0A → v = s.faultInfo) ∧ (n = 0x0B → v.toNat = s.violCount.toNat) ∧ (n = 0x0C → v = s.txtLen) ∧
      (n = 0x07 ∨ 0x0D ≤ n → v = 0)

/-- R14, R16: a register write of an engine that is not halted sets the configuration register of that number and
nothing else; every other number has no effect. That a register number is any natural is the model's choice (log entry
19). -/
def Obligations.RegisterWritesByNumber : Prop :=
  ∀ (s : State) (n : Nat) (v : Reg32) (rest : List HostAction), s.running → s.inbox = .writeReg n v :: rest →
    (n = 0x00 → step s = .next { s with inbox := rest, reply := .none, cfgDtype := v }) ∧
      (n = 0x01 → step s = .next { s with inbox := rest, reply := .none, cfgTotal := v }) ∧
      (n = 0x02 → step s = .next { s with inbox := rest, reply := .none, cfgCyl := v }) ∧
      (n = 0x03 → step s = .next { s with inbox := rest, reply := .none, cfgHeads := v }) ∧
      (n = 0x04 → step s = .next { s with inbox := rest, reply := .none, cfgSect := v }) ∧
      (n = 0x05 → step s = .next { s with inbox := rest, reply := .none, cfgIlv := v }) ∧
      (n = 0x06 → step s = .next { s with inbox := rest, reply := .none, cfgNfull := v }) ∧
      (0x07 ≤ n → step s = .next { s with inbox := rest, reply := .none })

/-- R16, R20, R22, R23: the host reads TXT, REPORT and VIOL as they stand, halted or not, and nothing else changes. That
one action gives the three together is the model's reading of R234 (log entry 12). -/
def Obligations.HostReadsTheResults : Prop :=
  ∀ (s : State) (rest : List HostAction), s.inbox = .readResult :: rest →
    ∃ txt report viol, step s = .next { s with inbox := rest, reply := .result txt report viol } ∧
      txt = s.txt ∧ report = s.report ∧ viol = s.viol

/-- R231: a load of BUF_LEN bytes puts byte k of the data into PHYS[k] and changes nothing else, padding unchecked. -/
def Obligations.HostLoadFillsPhys : Prop :=
  ∀ (s : State) (data : List Byte) (rest : List HostAction),
    s.running → s.inbox = .load data :: rest → data.length = s.par.bufLen →
      ∃ t, step s = .next t ∧ t = { s with inbox := rest, reply := .none, phys := t.phys } ∧
        (∀ k, k < s.par.bufLen → t.phys.read k = data.getD k 0) ∧
        ∀ k, s.par.bufLen ≤ k → t.phys.read k = s.phys.read k

/-- The model's choice (log entry 8), where R231 gives no meaning: a load of another number of bytes stops by name. -/
def Obligations.LoadOfWrongLengthStops : Prop :=
  ∀ (s : State) (data : List Byte) (rest : List HostAction),
    s.running → s.inbox = .load data :: rest → data.length ≠ s.par.bufLen → step s = .fault .hostLoadLength

/-- R232: a store gives the host the BUF_LEN bytes of PHYS in order and changes no state of the engine. -/
def Obligations.HostStoreReturnsPhys : Prop :=
  ∀ (s : State) (rest : List HostAction), s.running → s.inbox = .store :: rest →
    ∃ bytes, step s = .next { s with inbox := rest, reply := .sector bytes } ∧ bytes.length = s.par.bufLen ∧
      ∀ k, k < s.par.bufLen → bytes.getD k 0 = s.phys.read k

/-- R219, R233: a failing load or store halts with FAULT = 7 and FAULT_INFO = 0. Of the rest of the engine a failed
load may change PHYS[0 .. BUF_LEN-1] alone, to bytes nothing is said of, and a failed store changes nothing. -/
def Obligations.FailedTransferHalts : Prop :=
  ∀ (s : State) (rest : List HostAction), s.running →
    (s.inbox = .loadFails :: rest →
        ∃ t, step s = .next t ∧
          t = { s with inbox := rest, reply := .none, phys := t.phys, fault := 7, faultInfo := 0, draws := t.draws } ∧
          ∀ k, s.par.bufLen ≤ k → t.phys.read k = s.phys.read k) ∧
      (s.inbox = .storeFails :: rest →
        step s = .next { s with inbox := rest, reply := .none, fault := 7, faultInfo := 0 })

/-! ### ByteCodec -/

/-- R40, R101, R102, R103: GETU8, GETU16 and GETU24 in range complete, put the little-endian value into RES, and change
nothing else. -/
def Obligations.GetReadsLittleEndian : Prop :=
  ∀ (s : State) (buf : Buf) (ofs : Nat), s.running →
    (ofs + 1 ≤ s.par.bufLen →
        ∃ t, exec (.getu8 buf ofs) s = .next t ∧ t = { s with res := t.res } ∧ sameBytes s t ∧
          t.res.toNat = ((s.buffer buf).read ofs).toNat) ∧
      (ofs + 2 ≤ s.par.bufLen →
        ∃ t, exec (.getu16 buf ofs) s = .next t ∧ t = { s with res := t.res } ∧ sameBytes s t ∧
          t.res.toNat = ((s.buffer buf).read ofs).toNat + 256 * ((s.buffer buf).read (ofs + 1)).toNat) ∧
      (ofs + 3 ≤ s.par.bufLen →
        ∃ t, exec (.getu24 buf ofs) s = .next t ∧ t = { s with res := t.res } ∧ sameBytes s t ∧
          t.res.toNat = ((s.buffer buf).read ofs).toNat + 256 * ((s.buffer buf).read (ofs + 1)).toNat +
            65536 * ((s.buffer buf).read (ofs + 2)).toNat)

/-- R104, R105: GETTEXT in range completes with exactly `len` characters, character k made from byte k alone: its low
seven bits where they are printable, else the placeholder. Nothing but TXT and TXT_LEN changes. -/
def Obligations.GetTextSanitises : Prop :=
  ∀ (s : State) (buf : Buf) (ofs len : Nat), s.running → s.par.wf → ofs + len ≤ s.par.bufLen →
    ∃ t, exec (.gettext buf ofs len) s = .next t ∧ t = { s with txt := t.txt, txtLen := t.txtLen } ∧ sameBytes s t ∧
      t.txt.length = len ∧ t.txtLen.toNat = len ∧
      ∀ k, k < len →
        t.txt.getD k 0 =
          (if s.par.printLo.toNat ≤ ((s.buffer buf).read (ofs + k)).toNat % 128 ∧
              ((s.buffer buf).read (ofs + k)).toNat % 128 ≤ s.par.printHi.toNat then
            BitVec.ofNat 7 ((s.buffer buf).read (ofs + k)).toNat
          else s.par.textPlaceholder)

/-- R41, R106, R107, R108: SETU8, SETU16 and SETU24 in range complete and store the low 1, 2, 3 bytes of the value at
`ofs`, least significant first; every other byte of either buffer reads as before and nothing else changes. -/
def Obligations.SetStoresTruncatedBytes : Prop :=
  ∀ (s : State) (buf : Buf) (ofs value : Nat), s.running →
    (ofs + 1 ≤ s.par.bufLen →
        ∃ t, exec (.setu8 buf ofs value) s = .next t ∧ t = s.withBuffer buf (t.buffer buf) ∧
          (t.buffer buf).read ofs = BitVec.ofNat 8 value ∧
          ∀ b a, b ≠ buf ∨ a < ofs ∨ ofs + 1 ≤ a → (t.buffer b).read a = (s.buffer b).read a) ∧
      (ofs + 2 ≤ s.par.bufLen →
        ∃ t, exec (.setu16 buf ofs value) s = .next t ∧ t = s.withBuffer buf (t.buffer buf) ∧
          (t.buffer buf).read ofs = BitVec.ofNat 8 value ∧
          (t.buffer buf).read (ofs + 1) = BitVec.ofNat 8 (value / 256) ∧
          ∀ b a, b ≠ buf ∨ a < ofs ∨ ofs + 2 ≤ a → (t.buffer b).read a = (s.buffer b).read a) ∧
      (ofs + 3 ≤ s.par.bufLen →
        ∃ t, exec (.setu24 buf ofs value) s = .next t ∧ t = s.withBuffer buf (t.buffer buf) ∧
          (t.buffer buf).read ofs = BitVec.ofNat 8 value ∧
          (t.buffer buf).read (ofs + 1) = BitVec.ofNat 8 (value / 256) ∧
          (t.buffer buf).read (ofs + 2) = BitVec.ofNat 8 (value / 65536) ∧
          ∀ b a, b ≠ buf ∨ a < ofs ∨ ofs + 3 ≤ a → (t.buffer b).read a = (s.buffer b).read a)

/-- R110, R211: a ByteCodec command of width n with `ofs + n > BUF_LEN` raises OutOfRange(ofs): FAULT = 1,
FAULT_INFO = ofs, nothing else changes. -/
def Obligations.OutOfRangeChangesOnlyTheFault : Prop :=
  ∀ (s : State) (buf : Buf) (ofs value : Nat), s.running →
    (s.par.bufLen < ofs + 1 →
        exec (.getu8 buf ofs) s = .next { s with fault := 1, faultInfo := BitVec.ofNat 32 ofs } ∧
          exec (.setu8 buf ofs value) s = .next { s with fault := 1, faultInfo := BitVec.ofNat 32 ofs }) ∧
      (s.par.bufLen < ofs + 2 →
        exec (.getu16 buf ofs) s = .next { s with fault := 1, faultInfo := BitVec.ofNat 32 ofs } ∧
          exec (.setu16 buf ofs value) s = .next { s with fault := 1, faultInfo := BitVec.ofNat 32 ofs }) ∧
      (s.par.bufLen < ofs + 3 →
        exec (.getu24 buf ofs) s = .next { s with fault := 1, faultInfo := BitVec.ofNat 32 ofs } ∧
          exec (.setu24 buf ofs value) s = .next { s with fault := 1, faultInfo := BitVec.ofNat 32 ofs }) ∧
      (s.par.bufLen < ofs + value →
        exec (.gettext buf ofs value) s = .next { s with fault := 1, faultInfo := BitVec.ofNat 32 ofs })

/-- R112: for n in {1, 2, 3} and any natural v, a SET of width n followed by a GET of the same width at the same offset
returns `v mod 2^(8n)`. -/
def Obligations.SetThenGetTruncates : Prop :=
  ∀ (s : State) (buf : Buf) (ofs v : Nat), s.running →
    (ofs + 1 ≤ s.par.bufLen →
        ∃ t u, exec (.setu8 buf ofs v) s = .next t ∧ exec (.getu8 buf ofs) t = .next u ∧ u.res.toNat = v % 2 ^ 8) ∧
      (ofs + 2 ≤ s.par.bufLen →
        ∃ t u, exec (.setu16 buf ofs v) s = .next t ∧ exec (.getu16 buf ofs) t = .next u ∧ u.res.toNat = v % 2 ^ 16) ∧
      (ofs + 3 ≤ s.par.bufLen →
        ∃ t u, exec (.setu24 buf ofs v) s = .next t ∧ exec (.getu24 buf ofs) t = .next u ∧ u.res.toNat = v % 2 ^ 24)

/-- R114: GETTEXT of `len` bytes is the concatenation of GETTEXTs of one byte; printable bytes give their seven-bit
values, and setting the high bits again gives back bytes that all had it set. -/
def Obligations.TextIsBytewise : Prop :=
  ∀ (p : Params) (m : Mem) (ofs len : Nat),
    getText p m ofs len = (List.range len).flatMap (fun k => getText p m (ofs + k) 1) ∧
      ((∀ k, k < len → printable p ((m.read (ofs + k)).setWidth 7) = true) →
        getText p m ofs len = (List.range len).map fun k => (m.read (ofs + k)).setWidth 7) ∧
      ((∀ k, k < len → printable p ((m.read (ofs + k)).setWidth 7) = true ∧ (m.read (ofs + k)).getLsbD 7 = true) →
        (getText p m ofs len).map (fun c => c.setWidth 8 ||| 0x80) = m.bytesAt ofs len)

/-! ### The interleave transform -/

/-- R120, R121, R124: DEINTERLEAVE on clean padding completes; physical unit u lands, its bytes in order, at logical
offset `2*(u div 2) + 256*(u mod 2)`, for all 256 units; nothing but LOG[0..511] changes. -/
def Obligations.DeinterleaveMovesTheUnits : Prop :=
  ∀ s : State, s.running → cleanPadding s s.phys → cleanPadding s s.log →
    ∃ t, exec .deinterleave s = .next t ∧ t = { s with log := t.log } ∧
      (∀ u, u < 256 → t.log.read (2 * (u / 2) + 256 * (u % 2)) = s.phys.read (2 * u) ∧
        t.log.read (2 * (u / 2) + 256 * (u % 2) + 1) = s.phys.read (2 * u + 1)) ∧
      (∀ a, 512 ≤ a → t.log.read a = s.log.read a) ∧ ∀ a, t.phys.read a = s.phys.read a

/-- R120, R121, R125: INTERLEAVE on clean padding completes; physical unit u takes, in order, the logical bytes at
`2*(u div 2) + 256*(u mod 2)`, for all 256 units; nothing but PHYS[0..511] changes. -/
def Obligations.InterleaveMovesTheUnits : Prop :=
  ∀ s : State, s.running → cleanPadding s s.phys → cleanPadding s s.log →
    ∃ t, exec .interleave s = .next t ∧ t = { s with phys := t.phys } ∧
      (∀ u, u < 256 → t.phys.read (2 * u) = s.log.read (2 * (u / 2) + 256 * (u % 2)) ∧
        t.phys.read (2 * u + 1) = s.log.read (2 * (u / 2) + 256 * (u % 2) + 1)) ∧
      (∀ a, 512 ≤ a → t.phys.read a = s.phys.read a) ∧ ∀ a, t.log.read a = s.log.read a

/-- R123, R212, R221: a transform with dirty padding raises PaddingNonZero and writes nothing: the lowest offending
offset of the source; if that is clean, the lowest of the destination with bit 16 of FAULT_INFO set. -/
def Obligations.DirtyPaddingFaults : Prop :=
  ∀ (s : State) (k : Nat), s.running → s.par.wf →
    (firstDirty s s.phys k →
        exec .deinterleave s = .next { s with fault := 2, faultInfo := BitVec.ofNat 32 k }) ∧
      (cleanPadding s s.phys → firstDirty s s.log k →
        exec .deinterleave s = .next { s with fault := 2, faultInfo := BitVec.ofNat 32 (65536 + k) }) ∧
      (firstDirty s s.log k →
        exec .interleave s = .next { s with fault := 2, faultInfo := BitVec.ofNat 32 k }) ∧
      (cleanPadding s s.log → firstDirty s s.phys k →
        exec .interleave s = .next { s with fault := 2, faultInfo := BitVec.ofNat 32 (65536 + k) })

/-- R128: with clean padding, DEINTERLEAVE then INTERLEAVE leaves PHYS as it was, and INTERLEAVE then DEINTERLEAVE leaves
LOG as it was. -/
def Obligations.TransformsRoundTrip : Prop :=
  ∀ s : State, s.running → cleanPadding s s.phys → cleanPadding s s.log →
    (∃ t u, exec .deinterleave s = .next t ∧ exec .interleave t = .next u ∧ ∀ a, u.phys.read a = s.phys.read a) ∧
      ∃ t u, exec .interleave s = .next t ∧ exec .deinterleave t = .next u ∧ ∀ a, u.log.read a = s.log.read a

/-- R126: J is a bijection from 0..255 onto the even numbers 0..510, and L a bijection of 0..511 onto itself (with P its
inverse, R122). -/
def Obligations.TransformMapsAreBijections : Prop :=
  (∀ u v, u < 256 → v < 256 → unitOfs u = unitOfs v → u = v) ∧
    (∀ j, j < 511 → j % 2 = 0 → ∃ u, u < 256 ∧ unitOfs u = j) ∧
    (∀ u, u < 256 → unitOfs u < 511 ∧ unitOfs u % 2 = 0) ∧
    (∀ p, p < 512 → logicalOf p < 512 ∧ physicalOf (logicalOf p) = p) ∧
    ∀ l, l < 512 → physicalOf l < 512 ∧ logicalOf (physicalOf l) = l

/-- R129: L has exactly four fixed points; eight times L is the identity and no smaller positive power is; so eight
DEINTERLEAVEs, each fed the previous result, give back the original bytes. -/
def Obligations.TransformHasOrderEight : Prop :=
  (∀ p, p < 512 → (logicalOf p = p ↔ p = 0 ∨ p = 1 ∨ p = 510 ∨ p = 511)) ∧
    (∀ p, p < 512 → logicalOf^[8] p = p) ∧
    (∀ k, 0 < k → k < 8 → ∃ p, p < 512 ∧ logicalOf^[k] p ≠ p) ∧
    ∀ (m : Mem) (a : Nat), ((fun b : Mem => b.splice 0 (deinterleaved b))^[8] m).read a = m.read a

/-! ### The checksum -/

/-- R136, R137: CHECKSUM completes on every state, puts into RES the exclusive or of the even-offset bytes of LOG (low)
and of the odd-offset bytes (high), the pair at 2 left out, and changes nothing else. -/
def Obligations.ChecksumIsTwoColumnParities : Prop :=
  ∀ s : State, s.running →
    ∃ t, exec .checksum s = .next t ∧ t = { s with res := t.res } ∧ sameBytes s t ∧
      t.res.toNat = (xorAt s.log evenColumn).toNat + 256 * (xorAt s.log oddColumn).toNat

/-- R138: the checksum is stable across repeated calls and unaffected by the value stored in the checksum field. -/
def Obligations.ChecksumIgnoresItsOwnField : Prop :=
  ∀ (s : State) (v : Nat), s.running → s.par.wf →
    ∃ a b t u, exec .checksum s = .next a ∧ exec .checksum a = .next b ∧ b.res = a.res ∧
      exec (.setu16 .log 0x02 v) s = .next t ∧ exec .checksum t = .next u ∧ u.res = a.res

/-- R139: after the checksum is stored, each parity byte in its column, the exclusive or of all even-offset bytes is 0
and so is that of all odd-offset bytes; a block has a matching checksum exactly when both are. -/
def Obligations.StoredChecksumZeroesTheColumns : Prop :=
  (∀ m : Mem, (memWrite m 0x02 2 (checksum m).toNat).read 0x02 = xorAt m evenColumn ∧
      (memWrite m 0x02 2 (checksum m).toNat).read 0x03 = xorAt m oddColumn ∧
      xorAt (memWrite m 0x02 2 (checksum m).toNat) ((List.range 256).map (2 * ·)) = 0 ∧
      xorAt (memWrite m 0x02 2 (checksum m).toNat) ((List.range 256).map (2 * · + 1)) = 0) ∧
    ∀ m : Mem, memRead m 0x02 2 = (checksum m).toNat ↔
      xorAt m ((List.range 256).map (2 * ·)) = 0 ∧ xorAt m ((List.range 256).map (2 * · + 1)) = 0

/-- R141 (a), (b): the checksum is linear, and changing one byte by exclusive or with d changes the low byte of the
checksum by d at an even offset other than 2, the high byte at an odd offset other than 3. -/
def Obligations.ChecksumIsLinear : Prop :=
  (∀ x y z : Mem, (∀ a, a < 512 → z.read a = x.read a ^^^ y.read a) → checksum z = checksum x ^^^ checksum y) ∧
    ∀ (m : Mem) (a : Nat) (d : Byte), a < 512 → a ≠ 2 → a ≠ 3 →
      checksum (m.splice a [m.read a ^^^ d]) =
        checksum m ^^^ (if a % 2 = 0 then (0 : Byte) ++ d else d ++ (0 : Byte))

/-! ### BUILD -/

/-- R149 to R153: BUILD with CFG_NFULL not 0 completes; the header holds the magic, RSVD at every reserved offset, each
configuration register truncated to its field, boot index 0 and four unused-slot bytes; the bytes from 512 on, PHYS
and all else but VIOL are as before. -/
def Obligations.BuildWritesTheHeader : Prop :=
  ∀ s : State, s.running → s.cfgNfull ≠ 0 →
    ∃ t, exec .build s = .next t ∧ t = { s with log := t.log, viol := t.viol, violCount := t.violCount } ∧
      memRead t.log 0x00 2 = 0xAEAE ∧ (∀ k ∈ reservedOfs, t.log.read k = rsvdAt s.par k) ∧
      memRead t.log 0x04 1 = s.cfgDtype.toNat % 2 ^ 8 ∧ memRead t.log 0x05 3 = s.cfgTotal.toNat % 2 ^ 24 ∧
      memRead t.log 0x09 2 = s.cfgCyl.toNat % 2 ^ 16 ∧ memRead t.log 0x0B 1 = s.cfgHeads.toNat % 2 ^ 8 ∧
      memRead t.log 0x0C 1 = s.cfgSect.toNat % 2 ^ 8 ∧ memRead t.log 0x0D 1 = s.cfgIlv.toNat % 2 ^ 8 ∧
      t.log.read 0x0E = 0 ∧ (∀ k, 0x11 ≤ k → k ≤ 0x14 → t.log.read k = 0xFF) ∧
      (∀ a, 512 ≤ a → t.log.read a = s.log.read a) ∧ ∀ a, t.phys.read a = s.phys.read a

/-- R154 to R158, R162: entry i of a built table, by the closed forms: its start, its size, the active flag exactly for
`i < min(CFG_NFULL, 4)`, and its name. -/
def Obligations.BuildFillsTheEntries : Prop :=
  ∀ s : State, s.running → s.cfgNfull ≠ 0 →
    ∃ t, exec .build s = .next t ∧
      ∀ i, i < 16 →
        memRead t.log (0x100 + 16 * i) 3 = closedStart s.cfgNfull.toNat i ∧
          memRead t.log (0x100 + 16 * i + 3) 2 = closedSize s.cfgNfull.toNat i ∧
          t.log.read (0x100 + 16 * i + 5) = (if i < min s.cfgNfull.toNat 4 then 0x40 else 0) ∧
          t.log.bytesAt (0x100 + 16 * i + 6) 10 = closedName i

/-- R160: BUILD leaves in VIOL one W_BUILD_TOTAL, not fatal, when the untruncated CFG_TOTAL is not the pool plus one,
and the empty list when it is. -/
def Obligations.BuildWarnsOnTheTotal : Prop :=
  ∀ s : State, s.running → s.cfgNfull ≠ 0 →
    ∃ t, exec .build s = .next t ∧ t.fault = 0 ∧
      (s.cfgTotal.toNat = 65536 * s.cfgNfull.toNat → t.viol = [] ∧ t.violCount = 0) ∧
      (s.cfgTotal.toNat ≠ 65536 * s.cfgNfull.toNat →
        t.viol = [⟨.wBuildTotal, false, none, 65536 * s.cfgNfull.toNat, s.cfgTotal.toNat⟩] ∧ t.violCount = 1)

/-- R148: if CFG_NFULL = 0, BUILD is refused, before any byte is written. -/
def Obligations.BuildRefusesCountZero : Prop :=
  ∀ s : State, s.running → s.cfgNfull = 0 → exec .build s = .refused .builderCountZero

/-- R145, R161: BUILD reads no buffer: two states with the same parameters and configuration build the same 512 bytes
and the same violations, whatever their buffers and results hold. -/
def Obligations.BuildReadsNoBuffer : Prop :=
  ∀ s s' t t' : State, s.running → s'.running → sameConfig s s' → exec .build s = .next t → exec .build s' = .next t' →
    (∀ a, a < 512 → t.log.read a = t'.log.read a) ∧ t.viol = t'.viol ∧ t.violCount = t'.violCount

/-- R159, R163: every built table has the magic and its own checksum, starts at block 1, is contiguous, has at most four
active entries, and its sizes plus one are the stored total when CFG_NFULL ≤ 15 and CFG_TOTAL = 65536 * CFG_NFULL. -/
def Obligations.BuiltTableIsConsistent : Prop :=
  ∀ s : State, s.running → s.cfgNfull ≠ 0 →
    ∃ t, exec .build s = .next t ∧ memRead t.log 0x00 2 = 0xAEAE ∧ memRead t.log 0x02 2 = (checksum t.log).toNat ∧
      memRead t.log (entryOfs 0) 3 = 1 ∧
      (∀ i, i < 15 → memRead t.log (entryOfs (i + 1)) 3 = memRead t.log (entryOfs i) 3 + memRead t.log (entryOfs i + 3) 2) ∧
      ((List.range 16).filter fun i => flagsActive (t.log.read (entryOfs i + 5))).length ≤ 4 ∧
      (s.cfgNfull.toNat ≤ 15 → s.cfgTotal.toNat = 65536 * s.cfgNfull.toNat →
        memRead t.log 0x05 3 = cursorBefore t.log 16)

/-- R163, R248: ANALYZE of a block built with CFG_NFULL ≤ 15, CFG_TOTAL = 65536 * CFG_NFULL, head and sector counts not
zero, and a cylinder count not below the derived one reports no violation. The rule speaks of register values; this
statement asks besides that the three geometry registers fit their fields, since BUILD stores them truncated (R152). -/
def Obligations.BuiltTableAnalyzesClean : Prop :=
  ∀ s : State, s.running → cleanPadding s s.log → s.cfgNfull ≠ 0 → s.cfgNfull.toNat ≤ 15 →
    s.cfgTotal.toNat = 65536 * s.cfgNfull.toNat →
    0 < s.cfgHeads.toNat → s.cfgHeads.toNat < 256 → 0 < s.cfgSect.toNat → s.cfgSect.toNat < 256 →
    s.cfgCyl.toNat < 65536 → s.cfgTotal.toNat / s.cfgHeads.toNat / s.cfgSect.toNat ≤ s.cfgCyl.toNat →
      ∃ t u, exec .build s = .next t ∧ exec .analyze t = .next u ∧ u.fault = 0 ∧ u.report.valid = true ∧ u.viol = []

/-! ### ANALYZE -/

/-- R172, R202, R203, R214: a block whose magic is not 0xAEAE faults BadMagic before anything else is looked at: FAULT = 6,
FAULT_INFO the magic, VIOL the one fatal record, REPORT invalid; no buffer and no other register changes. -/
def Obligations.AnalyzeFaultsOnBadMagic : Prop :=
  ∀ s : State, s.running → memRead s.log 0x00 2 ≠ 0xAEAE →
    ∃ t, exec .analyze s = .next t ∧
      t = { s with report := t.report, viol := [⟨.fBadMagic, true, none, 0xAEAE, memRead s.log 0x00 2⟩], violCount := 1,
                   fault := 6, faultInfo := BitVec.ofNat 32 (memRead s.log 0x00 2), draws := t.draws } ∧
      t.report.valid = false ∧ sameBytes s t

/-- R189, R202, R203, R214: with the magic right, a non-zero byte of LOG at 512 or more faults TrailingNonZero at the lowest
such offset: FAULT = 5, FAULT_INFO the offset, VIOL the one fatal record, REPORT invalid, all else as before. -/
def Obligations.AnalyzeFaultsOnTrailingBytes : Prop :=
  ∀ (s : State) (k : Nat), s.running → memRead s.log 0x00 2 = 0xAEAE → firstDirty s s.log k →
    ∃ t, exec .analyze s = .next t ∧
      t = { s with report := t.report, viol := [⟨.fTrailingNonZero, true, none, 0, (s.log.read k).toNat⟩],
                   violCount := 1, fault := 5, faultInfo := BitVec.ofNat 32 k, draws := t.draws } ∧
      t.report.valid = false ∧ sameBytes s t

/-- R194, R227: with the magic right and the trailing space clean, a head or sector count of 0 is refused. -/
def Obligations.AnalyzeRefusesZeroDivisor : Prop :=
  ∀ s : State, s.running → memRead s.log 0x00 2 = 0xAEAE → cleanPadding s s.log →
    s.log.read 0x0B = 0 ∨ s.log.read 0x0C = 0 → exec .analyze s = .refused .zeroDivisor

/-- R170, R173 to R176, R203: on every other block ANALYZE completes, changes REPORT and VIOL alone, and reports each header
field with its width, the opaque regions and the active-slot bytes as they stand. -/
def Obligations.AnalyzeReportsTheHeader : Prop :=
  ∀ s : State, s.running → analyzable s →
    ∃ t, exec .analyze s = .next t ∧ t = { s with report := t.report, viol := t.viol, violCount := t.violCount } ∧
      sameBytes s t ∧ t.report.valid = true ∧ t.report.magic.toNat = 0xAEAE ∧
      t.report.checksumStored.toNat = memRead s.log 0x02 2 ∧ t.report.driveType = s.log.read 0x04 ∧
      t.report.totalBlocks.toNat = memRead s.log 0x05 3 ∧ t.report.rsv08 = s.log.read 0x08 ∧
      t.report.cylinders.toNat = memRead s.log 0x09 2 ∧ t.report.heads = s.log.read 0x0B ∧
      t.report.sectors = s.log.read 0x0C ∧ t.report.interleave = s.log.read 0x0D ∧
      t.report.bootIndex = s.log.read 0x0E ∧ t.report.rsv0F.toList = s.log.bytesAt 0x0F 2 ∧
      t.report.activeSlots.toList = s.log.bytesAt 0x11 4 ∧ t.report.rsv15.toList = s.log.bytesAt 0x15 235

/-- R179 to R184, R198: the record of entry i: its fields with their widths, the flags and kind of its typeAndFlags byte
(bits 5 and 4 ignored), the label, the name raw and sanitised, and the size in kilobytes rounded half to even. -/
def Obligations.AnalyzeDecodesTheEntries : Prop :=
  ∀ s : State, s.running → s.par.wf → analyzable s →
    ∃ t, exec .analyze s = .next t ∧
      ∀ i : Fin 16,
        t.report.entries[i].index = i ∧
          t.report.entries[i].start.toNat = memRead s.log (0x100 + 16 * i) 3 ∧
          t.report.entries[i].size.toNat = memRead s.log (0x100 + 16 * i + 3) 2 ∧
          t.report.entries[i].typeFlags = s.log.read (0x100 + 16 * i + 5) ∧
          t.report.entries[i].kind.toNat = (s.log.read (0x100 + 16 * i + 5)).toNat % 16 ∧
          t.report.entries[i].active = (s.log.read (0x100 + 16 * i + 5)).getLsbD 6 ∧
          t.report.entries[i].locked = (s.log.read (0x100 + 16 * i + 5)).getLsbD 7 ∧
          t.report.entries[i].kindLabel =
            ([KindLabel.clear, .proDOS, .dos33, .pascal, .cpm].getD ((s.log.read (0x100 + 16 * i + 5)).toNat % 16)
              (.unknown (s.log.read (0x100 + 16 * i + 5)))) ∧
          t.report.entries[i].nameRaw.toList = s.log.bytesAt (0x100 + 16 * i + 6) 10 ∧
          t.report.entries[i].nameText.toList = getText s.par s.log (0x100 + 16 * i + 6) 10 ∧
          roundedHalfEven (memRead s.log (0x100 + 16 * i + 3) 2 * s.par.blockBytes) s.par.kbBytes
            t.report.entries[i].sizeKb

/-- R178, R185, R186: VIOL holds a W_CONTIG for entry i exactly when its start is not the cursor, 1 plus the sizes of the
entries before it, whatever their starts are; the record carries the cursor and the start. -/
def Obligations.AnalyzeWarnsOnContiguity : Prop :=
  ∀ s : State, s.running → analyzable s →
    ∃ t, exec .analyze s = .next t ∧
      ∀ (i : Fin 16) (v : Violation),
        (v ∈ t.viol ∧ v.kind = .wContig ∧ v.entry = some i) ↔
          (memRead s.log (0x100 + 16 * i) 3 ≠ cursorBefore s.log i ∧
            v = ⟨.wContig, false, some i, cursorBefore s.log i, memRead s.log (0x100 + 16 * i) 3⟩)

/-- R187, R190 to R193: the sum of the sizes, the computed checksum and the derived cylinder count as reported, and the
three cross-checks: a warning exactly when the stored checksum, the declared total or the declared cylinder count
disagrees. -/
def Obligations.AnalyzeCrossChecks : Prop :=
  ∀ s : State, s.running → analyzable s →
    ∃ t, exec .analyze s = .next t ∧
      t.report.partitionedBlocks = sizesBefore s.log 16 ∧ t.report.checksumComputed = checksum s.log ∧
      t.report.derivedCylinders = memRead s.log 0x05 3 / ((s.log.read 0x0B).toNat * (s.log.read 0x0C).toNat) ∧
      (∀ v, (v ∈ t.viol ∧ v.kind = .wChecksum) ↔
        (memRead s.log 0x02 2 ≠ (checksum s.log).toNat ∧
          v = ⟨.wChecksum, false, none, (checksum s.log).toNat, memRead s.log 0x02 2⟩)) ∧
      (∀ v, (v ∈ t.viol ∧ v.kind = .wTotal) ↔
        (cursorBefore s.log 16 ≠ memRead s.log 0x05 3 ∧
          v = ⟨.wTotal, false, none, cursorBefore s.log 16, memRead s.log 0x05 3⟩)) ∧
      ∀ v, (v ∈ t.viol ∧ v.kind = .wGeometry) ↔
        (memRead s.log 0x09 2 < t.report.derivedCylinders ∧
          v = ⟨.wGeometry, false, none, t.report.derivedCylinders, memRead s.log 0x09 2⟩)

/-- R20, R200, R218: the list of a completed ANALYZE: W_CONTIG in ascending entry index, then W_CHECKSUM, W_TOTAL, W_GEOMETRY,
each at most once; none fatal, at most 19, VIOL_COUNT their number, and the engine runs on. -/
def Obligations.AnalyzeOrdersItsWarnings : Prop :=
  ∀ s : State, s.running → analyzable s →
    ∃ t, exec .analyze s = .next t ∧ t.fault = 0 ∧ t.viol.length ≤ 19 ∧ t.violCount.toNat = t.viol.length ∧
      (∀ v ∈ t.viol, v.fatal = false ∧ 1 ≤ v.kind.code ∧ v.kind.code ≤ 4) ∧
      t.viol.Pairwise fun v w => v.kind.code < w.kind.code ∨
        (v.kind.code = 1 ∧ w.kind.code = 1 ∧ ∃ i j, v.entry = some i ∧ w.entry = some j ∧ i < j)

/-- R195 to R197: the two drive sizes in tenths of a megabyte, each the exact rational rounded half up. -/
def Obligations.AnalyzeRoundsTheDriveSizes : Prop :=
  ∀ s : State, s.running → s.par.wf → analyzable s →
    ∃ t, exec .analyze s = .next t ∧
      roundedHalfUp (memRead s.log 0x05 3 * s.par.blockBytes * 10) s.par.mbBytes t.report.logicalMbX10 ∧
      roundedHalfUp
        (memRead s.log 0x09 2 * (s.log.read 0x0B).toNat * (s.log.read 0x0C).toNat * s.par.blockBytes * 10)
        s.par.mbBytes t.report.nativeMbX10

/-- R201: ANALYZE changes no byte of LOG or PHYS and no configuration register; its results are a function of LOG and the
parameters alone (REPORT where it is valid, FAULT_INFO where it faults); hence a block analyzed twice without mutation
gives the same report and the same violations. -/
def Obligations.AnalyzeIsAFunctionOfLog : Prop :=
  (∀ s t : State, s.running → exec .analyze s = .next t → sameBytes s t ∧ sameConfig s t) ∧
    (∀ s s' t t' : State, s.running → s'.running → s.par = s'.par → (∀ a, s.log.read a = s'.log.read a) →
      exec .analyze s = .next t → exec .analyze s' = .next t' →
        t.viol = t'.viol ∧ t.violCount = t'.violCount ∧ t.fault = t'.fault ∧
          (t.fault ≠ 0 → t.faultInfo = t'.faultInfo) ∧ t.report.valid = t'.report.valid ∧
          (t.report.valid = true → t.report = t'.report)) ∧
    ∀ s : State, s.running → analyzable s →
      ∃ t u, exec .analyze s = .next t ∧ exec .analyze t = .next u ∧ u.report = t.report ∧ u.viol = t.viol ∧
        u.violCount = t.violCount

/-! ### The whole machine -/

/-- R46, R60, R61, R177, R188: the header's fields tile 0x000..0x0FF and an entry's its 16 bytes, without gap or overlap, and
sixteen entries end at 0x200: the two cursor assertions. -/
def Obligations.LayoutTilesTheBlock : Prop :=
  walkCursor 0 headerFields = some 0x100 ∧ walkCursor 0 entryFields = some 16 ∧ entryOfs 0 = 0x100 ∧
    (∀ i, i < 16 → entryOfs i + 16 = entryOfs (i + 1)) ∧ entryOfs 16 = 0x200

/-- R17: which command writes what. No command writes the parameters, a configuration register or the host's side, and
each of the rest only where its row says: a SET the 1, 2, 3 bytes of the selected buffer from its offset on,
DEINTERLEAVE and BUILD LOG[0..511], INTERLEAVE PHYS[0..511]; every byte outside these reads as before. FAULT and
FAULT_INFO change only where the command faults; the model's counter of free values only in ANALYZE. -/
def Obligations.EachCommandWritesItsOwn : Prop :=
  ∀ (i : Instr) (s t : State), s.running → exec i s = .next t →
    sameConfig s t ∧ t.inbox = s.inbox ∧ t.reply = s.reply ∧
      (t.res = s.res ∨ (∃ b o, i = .getu8 b o ∨ i = .getu16 b o ∨ i = .getu24 b o) ∨ i = .checksum) ∧
      ((t.txt = s.txt ∧ t.txtLen = s.txtLen) ∨ ∃ b o n, i = .gettext b o n) ∧
      ((∀ a, t.phys.read a = s.phys.read a) ∨
        (i = .interleave ∧ ∀ a, 512 ≤ a → t.phys.read a = s.phys.read a) ∨
        ∃ o v, (i = .setu8 .phys o v ∧ ∀ a, a < o ∨ o + 1 ≤ a → t.phys.read a = s.phys.read a) ∨
          (i = .setu16 .phys o v ∧ ∀ a, a < o ∨ o + 2 ≤ a → t.phys.read a = s.phys.read a) ∨
          (i = .setu24 .phys o v ∧ ∀ a, a < o ∨ o + 3 ≤ a → t.phys.read a = s.phys.read a)) ∧
      ((∀ a, t.log.read a = s.log.read a) ∨
        ((i = .deinterleave ∨ i = .build) ∧ ∀ a, 512 ≤ a → t.log.read a = s.log.read a) ∨
        ∃ o v, (i = .setu8 .log o v ∧ ∀ a, a < o ∨ o + 1 ≤ a → t.log.read a = s.log.read a) ∨
          (i = .setu16 .log o v ∧ ∀ a, a < o ∨ o + 2 ≤ a → t.log.read a = s.log.read a) ∨
          (i = .setu24 .log o v ∧ ∀ a, a < o ∨ o + 3 ≤ a → t.log.read a = s.log.read a)) ∧
      (t.report = s.report ∨ i = .analyze) ∧
      ((t.viol = s.viol ∧ t.violCount = s.violCount) ∨ i = .build ∨ i = .analyze) ∧
      ((t.fault = s.fault ∧ t.faultInfo = s.faultInfo) ∨ t.fault ≠ 0) ∧ (t.draws = s.draws ∨ i = .analyze)

/-- R223, R225: a command that faults writes nothing it would have written: only FAULT and FAULT_INFO, and for ANALYZE
besides VIOL and REPORT, change. -/
def Obligations.FaultsArePrecise : Prop :=
  ∀ (i : Instr) (s t : State), s.running → exec i s = .next t → t.fault ≠ 0 →
    t = { s with fault := t.fault, faultInfo := t.faultInfo, report := t.report, viol := t.viol,
                 violCount := t.violCount, draws := t.draws } ∧
      (i ≠ .analyze → t = { s with fault := t.fault, faultInfo := t.faultInfo }) ∧ i ≠ .build ∧ i ≠ .checksum

/-- R227: the two states given no meaning are the only ones in which a command stops, and no command ends in a fault of
the model. -/
def Obligations.RefusalsAreTheTwoOfTheSpec : Prop :=
  ∀ (i : Instr) (s : State), s.running →
    (∀ r, exec i s ≠ .fault r) ∧
      ∀ r, exec i s = .refused r →
        (i = .build ∧ s.cfgNfull = 0 ∧ r = .builderCountZero) ∨
          (i = .analyze ∧ memRead s.log 0x00 2 = 0xAEAE ∧ cleanPadding s s.log ∧
            (s.log.read 0x0B = 0 ∨ s.log.read 0x0C = 0) ∧ r = .zeroDivisor)

/-- R127, R213: the two assertions never fire: no step, from any state whose FAULT is not already 3 or 4, leaves FAULT
at IndexOutOfRange or CursorMismatch. -/
def Obligations.AssertionsNeverFire : Prop :=
  ∀ s t : State, step s = .next t → s.fault ≠ 3 → s.fault ≠ 4 → t.fault ≠ 3 ∧ t.fault ≠ 4
end

