-- ==== Sys2Proof/Laws/Memory.lean ====
section
/-! SUPPORT. Laws/Memory.lean: the laws of one buffer: what a byte reads as after a store, that every store keeps the
canonical form, the lowest non-zero byte of a range, and byte order. -/

namespace Sys2Proof.Machine

namespace MemLaw

/-! ### Reading a list of cells -/

theorem read_nil (a : Nat) : Mem.read [] a = 0 := rfl

theorem read_cons (c : Host.Cell) (m : Mem) (a : Nat) :
    Mem.read (c :: m) a = if a = c.1 then c.2 else Mem.read m a := rfl

theorem read_eq_zero {m : Mem} {a : Nat} (h : ∀ c ∈ m, c.1 ≠ a) : m.read a = 0 := by
  induction m with
  | nil => rfl
  | cons c m ih =>
    have hc := h c (by simp)
    rw [read_cons, if_neg (fun e => hc e.symm)]
    exact ih fun d hd => h d (by simp [hd])

theorem read_append_left {m n : Mem} {a : Nat} (h : ∀ c ∈ n, c.1 ≠ a) : (m ++ n : Mem).read a = m.read a := by
  induction m with
  | nil => exact read_eq_zero h
  | cons c m ih => rw [List.cons_append, read_cons, read_cons, ih]

theorem read_append_right {m n : Mem} {a : Nat} (h : ∀ c ∈ m, c.1 ≠ a) : (m ++ n : Mem).read a = n.read a := by
  induction m with
  | nil => rfl
  | cons c m ih =>
    have hc := h c (by simp)
    rw [List.cons_append, read_cons, if_neg (fun e => hc e.symm)]
    exact ih fun d hd => h d (by simp [hd])

theorem read_filter {m : Mem} {p : Host.Cell → Bool} {a : Nat} (h : ∀ c ∈ m, c.1 = a → p c = true) :
    Mem.read (m.filter p) a = m.read a := by
  induction m with
  | nil => rfl
  | cons c m ih =>
    have ih' := ih fun d hd => h d (by simp [hd])
    by_cases hp : p c = true
    · rw [List.filter_cons_of_pos hp, read_cons, read_cons, ih']
    · rw [List.filter_cons_of_neg hp, read_cons, ih', if_neg]
      intro e
      exact hp (h c (by simp) e.symm)

/-! ### Cells of a run of bytes -/

theorem cells_range {a : Nat} {vs : List Byte} : ∀ c ∈ Mem.cells a vs, a ≤ c.1 ∧ c.1 < a + vs.length := by
  induction vs generalizing a with
  | nil => intro c h; simp [Mem.cells] at h
  | cons v vs ih =>
    intro c h
    unfold Mem.cells at h
    split at h
    · have := ih c h
      simp only [List.length_cons]
      omega
    · rcases List.mem_cons.mp h with rfl | h
      · simp
      · have := ih c h
        simp only [List.length_cons]
        omega

theorem cells_nonzero {a : Nat} {vs : List Byte} : ∀ c ∈ Mem.cells a vs, c.2 ≠ Mem.unlisted := by
  induction vs generalizing a with
  | nil => intro c h; simp [Mem.cells] at h
  | cons v vs ih =>
    intro c h
    unfold Mem.cells at h
    split at h
    · exact ih c h
    · rcases List.mem_cons.mp h with rfl | h
      · assumption
      · exact ih c h

theorem cells_sorted {a : Nat} {vs : List Byte} : (Mem.cells a vs).Pairwise (fun x y => x.1 < y.1) := by
  induction vs generalizing a with
  | nil => simp [Mem.cells]
  | cons v vs ih =>
    unfold Mem.cells
    split
    · exact ih
    · refine List.pairwise_cons.mpr ⟨fun c hc => ?_, ih⟩
      have := cells_range c hc
      exact this.1

theorem read_cells {o : Nat} {vs : List Byte} {a : Nat} (h : o ≤ a) : (Mem.cells o vs).read a = vs.getD (a - o) 0 := by
  induction vs generalizing o with
  | nil => simp [Mem.cells, read_nil]
  | cons v vs ih =>
    rcases Nat.eq_or_lt_of_le h with rfl | hlt
    · unfold Mem.cells
      split
      · rename_i hv
        rw [read_eq_zero]
        · simp only [Nat.sub_self, List.getD_cons_zero]
          exact hv.symm
        · intro c hc
          have := cells_range c hc
          omega
      · simp [read_cons]
    · have hs : a - o = (a - (o + 1)) + 1 := by omega
      have hi : (Mem.cells (o + 1) vs).read a = (v :: vs).getD (a - o) 0 := by
        rw [hs, List.getD_cons_succ]; exact ih hlt
      unfold Mem.cells
      split
      · exact hi
      · rw [read_cons, if_neg (by simp only; omega)]; exact hi

end MemLaw

open MemLaw

/-! ### Stores -/

/-- A byte after a store: the stored byte inside the stored range, the old byte outside. -/
theorem Mem.read_splice (m : Mem) (o : Nat) (vs : List Byte) (a : Nat) :
    (m.splice o vs).read a = if o ≤ a ∧ a < o + vs.length then vs.getD (a - o) 0 else m.read a := by
  unfold Mem.splice
  split
  · rename_i h
    rw [read_append_left, read_append_right, read_cells h.1]
    · intro c hc
      have : c.1 < o := by simpa using (List.mem_filter.mp hc).2
      omega
    · intro c hc
      have : o + vs.length ≤ c.1 := by simpa using (List.mem_filter.mp hc).2
      omega
  · rename_i h
    by_cases hl : a < o
    · rw [read_append_left, read_append_left, read_filter]
      · intro c _ e
        subst e
        simpa using hl
      · intro c hc
        have := cells_range c hc
        omega
      · intro c hc
        have : o + vs.length ≤ c.1 := by simpa using (List.mem_filter.mp hc).2
        omega
    · rw [read_append_right, read_filter]
      · intro c _ e
        subst e
        simp only [decide_eq_true_eq]
        omega
      · intro c hc
        rcases List.mem_append.mp hc with hc | hc
        · have : c.1 < o := by simpa using (List.mem_filter.mp hc).2
          omega
        · have := cells_range c hc
          omega

theorem Mem.read_splice_of_lt (m : Mem) {o : Nat} (vs : List Byte) {a : Nat} (h : a < o) :
    (m.splice o vs).read a = m.read a := by
  rw [Mem.read_splice, if_neg (by omega)]

theorem Mem.read_splice_of_ge (m : Mem) {o : Nat} (vs : List Byte) {a : Nat} (h : o + vs.length ≤ a) :
    (m.splice o vs).read a = m.read a := by
  rw [Mem.read_splice, if_neg (by omega)]

theorem Mem.read_splice_of_mem (m : Mem) {o : Nat} (vs : List Byte) {a : Nat} (h : o ≤ a) (h' : a < o + vs.length) :
    (m.splice o vs).read a = vs.getD (a - o) 0 := by
  rw [Mem.read_splice, if_pos ⟨h, h'⟩]

/-- The one operation that changes a buffer keeps the canonical form. -/
theorem Mem.wf_splice {m : Mem} (h : m.wf) (o : Nat) (vs : List Byte) : (m.splice o vs).wf := by
  obtain ⟨hs, hz⟩ := h
  unfold Mem.splice
  refine ⟨?_, ?_⟩
  · rw [List.pairwise_append, List.pairwise_append]
    refine ⟨⟨hs.filter _, cells_sorted, ?_⟩, hs.filter _, ?_⟩
    · intro x hx y hy
      have h1 : x.1 < o := by simpa using (List.mem_filter.mp hx).2
      have h2 := cells_range y hy
      omega
    · intro x hx y hy
      have h2 : o + vs.length ≤ y.1 := by simpa using (List.mem_filter.mp hy).2
      rcases List.mem_append.mp hx with hx | hx
      · have h1 : x.1 < o := by simpa using (List.mem_filter.mp hx).2
        omega
      · have h1 := cells_range x hx
        omega
  · intro c hc
    rcases List.mem_append.mp hc with hc | hc
    · rcases List.mem_append.mp hc with hc | hc
      · exact hz c (List.mem_filter.mp hc).1
      · exact cells_nonzero c hc
    · exact hz c (List.mem_filter.mp hc).1

theorem Mem.wf_nil : Mem.wf [] := ⟨List.Pairwise.nil, by simp⟩

/-- A store inside `0..n-1` lists no offset beyond. -/
theorem Mem.within_splice {m : Mem} {n o : Nat} {vs : List Byte} (h : m.within n) (hv : o + vs.length ≤ n) :
    (m.splice o vs).within n := by
  intro c hc
  unfold Mem.splice at hc
  rcases List.mem_append.mp hc with hc | hc
  · rcases List.mem_append.mp hc with hc | hc
    · exact h c (List.mem_filter.mp hc).1
    · have := cells_range c hc
      omega
  · exact h c (List.mem_filter.mp hc).1

theorem Mem.within_nil (n : Nat) : Mem.within [] n := by intro c h; simp at h

theorem Mem.within_mono {m : Mem} {n k : Nat} (h : m.within n) (hk : n ≤ k) : m.within k :=
  fun c hc => Nat.lt_of_lt_of_le (h c hc) hk

/-- Beyond its offsets a buffer reads as zero. -/
theorem Mem.read_of_within {m : Mem} {n a : Nat} (h : m.within n) (ha : n ≤ a) : m.read a = 0 :=
  read_eq_zero fun c hc => by have := h c hc; omega

/-- The canonical form earns its name: two canonical buffers that read the same everywhere are the same list. -/
theorem Mem.ext_read {m n : Mem} (hm : m.wf) (hn : n.wf) (h : ∀ a, m.read a = n.read a) : m = n := by
  induction m generalizing n with
  | nil =>
    cases n with
    | nil => rfl
    | cons d n =>
      exfalso
      have := h d.1
      rw [read_cons, if_pos rfl] at this
      exact hn.2 d (by simp) this.symm
  | cons c m ih =>
    cases n with
    | nil =>
      exfalso
      have := h c.1
      rw [read_cons, if_pos rfl] at this
      exact hm.2 c (by simp) this
    | cons d n =>
      obtain ⟨hm1, hm2⟩ := List.pairwise_cons.mp hm.1
      obtain ⟨hn1, hn2⟩ := List.pairwise_cons.mp hn.1
      have hcz : c.2 ≠ Mem.unlisted := hm.2 c (by simp)
      have hdz : d.2 ≠ Mem.unlisted := hn.2 d (by simp)
      have key : c.1 = d.1 := by
        rcases Nat.lt_trichotomy c.1 d.1 with hlt | he | hlt
        · exfalso
          have := h c.1
          rw [read_cons, if_pos rfl, read_cons, if_neg (by omega), read_eq_zero] at this
          · exact hcz this
          · intro x hx; have := hn1 x hx; omega
        · exact he
        · exfalso
          have := h d.1
          rw [read_cons, if_neg (by omega), read_eq_zero, read_cons, if_pos rfl] at this
          · exact hdz this.symm
          · intro x hx; have := hm1 x hx; omega
      have hval : c.2 = d.2 := by
        have := h c.1
        rwa [read_cons, if_pos rfl, read_cons, if_pos key] at this
      have htail : m = n := by
        refine ih ⟨hm2, fun x hx => hm.2 x (by simp [hx])⟩ ⟨hn2, fun x hx => hn.2 x (by simp [hx])⟩ fun a => ?_
        by_cases ha : a = c.1
        · rw [read_eq_zero, read_eq_zero]
          · intro x hx; have := hn1 x hx; omega
          · intro x hx; have := hm1 x hx; omega
        · have := h a
          rwa [read_cons, if_neg ha, read_cons, if_neg (by omega)] at this
      exact List.cons_eq_cons.mpr ⟨Prod.ext key hval, htail⟩

/-! ### The lowest non-zero byte -/

theorem Mem.firstNonZero_eq_none {m : Mem} {lo hi : Nat} :
    m.firstNonZero lo hi = none ↔ ∀ k, lo ≤ k → k < hi → m.read k = 0 := by
  unfold Mem.firstNonZero
  rw [List.find?_eq_none]
  constructor
  · intro h k h1 h2
    have := h k (by rw [List.mem_range'_1]; omega)
    simpa using this
  · intro h k hk
    rw [List.mem_range'_1] at hk
    have := h k hk.1 (by omega)
    simp [this]

theorem Mem.find_range_aux (p : Nat → Bool) (lo n k : Nat) :
    (List.range' lo n).find? p = some k ↔ (lo ≤ k ∧ k < lo + n) ∧ p k = true ∧ ∀ j, lo ≤ j → j < k → p j = false := by
  induction n generalizing lo with
  | zero => simp
  | succ n ih =>
    rw [List.range'_succ, List.find?_cons]
    cases hp : p lo with
    | true =>
      simp only [Option.some.injEq]
      constructor
      · rintro rfl
        exact ⟨⟨Nat.le_refl _, by omega⟩, hp, fun j h1 h2 => by omega⟩
      · rintro ⟨⟨h1, h2⟩, h3, h4⟩
        by_contra hne
        have := h4 lo (Nat.le_refl _) (by omega)
        rw [hp] at this
        exact absurd this (by simp)
    | false =>
      simp only
      rw [ih]
      constructor
      · rintro ⟨⟨h1, h2⟩, h3, h4⟩
        refine ⟨⟨by omega, by omega⟩, h3, fun j h5 h6 => ?_⟩
        by_cases he : j = lo
        · rw [he]; exact hp
        · exact h4 j (by omega) h6
      · rintro ⟨⟨h1, h2⟩, h3, h4⟩
        have hne : k ≠ lo := by
          intro he
          rw [he, hp] at h3
          exact absurd h3 (by simp)
        exact ⟨⟨by omega, by omega⟩, h3, fun j h5 h6 => h4 j (by omega) h6⟩

theorem Mem.firstNonZero_eq_some {m : Mem} {lo hi k : Nat} :
    m.firstNonZero lo hi = some k ↔
      (lo ≤ k ∧ k < hi) ∧ m.read k ≠ 0 ∧ ∀ j, lo ≤ j → j < k → m.read j = 0 := by
  unfold Mem.firstNonZero
  rw [Mem.find_range_aux]
  simp only [bne_iff_ne, ne_eq, bne_eq_false_iff_eq]
  constructor
  · rintro ⟨⟨h1, h2⟩, h3, h4⟩; exact ⟨⟨h1, by omega⟩, h3, h4⟩
  · rintro ⟨⟨h1, h2⟩, h3, h4⟩; exact ⟨⟨h1, by omega⟩, h3, h4⟩

/-! ### Byte order -/

@[simp] theorem Mem.length_bytesAt (m : Mem) (a n : Nat) : (m.bytesAt a n).length = n := by simp [Mem.bytesAt]

theorem Mem.getD_bytesAt (m : Mem) {a n k : Nat} (h : k < n) : (m.bytesAt a n).getD k 0 = m.read (a + k) := by
  simp [Mem.bytesAt, List.getD, h]

theorem Mem.bytesAt_zero (m : Mem) (a : Nat) : m.bytesAt a 0 = [] := rfl

theorem Mem.bytesAt_succ (m : Mem) (a n : Nat) : m.bytesAt a (n + 1) = m.read a :: m.bytesAt (a + 1) n := by
  simp only [Mem.bytesAt, List.range_succ_eq_map, List.map_cons, Nat.add_zero, List.map_map]
  congr 1
  apply List.map_congr_left
  intro k _
  simp [Nat.add_comm, Nat.add_left_comm]

theorem littleEndian_lt (vs : List Byte) : littleEndian vs < 256 ^ vs.length := by
  induction vs with
  | nil => simp [littleEndian]
  | cons v vs ih =>
    have := v.isLt
    simp only [littleEndian, List.length_cons, Nat.pow_succ]
    omega

@[simp] theorem length_toLittleEndian (n v : Nat) : (toLittleEndian n v).length = n := by
  induction n generalizing v with
  | zero => rfl
  | succ n ih => simp [toLittleEndian, ih]

theorem getD_toLittleEndian {n k : Nat} (h : k < n) (v : Nat) :
    (toLittleEndian n v).getD k 0 = BitVec.ofNat 8 (v / 256 ^ k) := by
  induction n generalizing v k with
  | zero => omega
  | succ n ih =>
    cases k with
    | zero => simp [toLittleEndian]
    | succ k =>
      rw [toLittleEndian, List.getD_cons_succ, ih (by omega), Nat.div_div_eq_div_mul, Nat.pow_succ']

theorem littleEndian_toLittleEndian (n v : Nat) : littleEndian (toLittleEndian n v) = v % 256 ^ n := by
  induction n generalizing v with
  | zero => simp [littleEndian, toLittleEndian, Nat.mod_one]
  | succ n ih =>
    rw [toLittleEndian, littleEndian, ih, BitVec.toNat_ofNat, show 256 ^ (n + 1) = 256 * 256 ^ n from Nat.pow_succ']
    exact (Nat.mod_mul (a := 256) (b := 256 ^ n) (x := v)).symm

theorem memRead_lt (m : Mem) (o n : Nat) : memRead m o n < 256 ^ n := by
  have := littleEndian_lt (m.bytesAt o n)
  rwa [Mem.length_bytesAt] at this

theorem memRead_one (m : Mem) (o : Nat) : memRead m o 1 = (m.read o).toNat := by
  simp [memRead, Mem.bytesAt_succ, Mem.bytesAt_zero, littleEndian]

theorem memRead_two (m : Mem) (o : Nat) : memRead m o 2 = (m.read o).toNat + 256 * (m.read (o + 1)).toNat := by
  simp [memRead, Mem.bytesAt_succ, Mem.bytesAt_zero, littleEndian]

theorem memRead_three (m : Mem) (o : Nat) :
    memRead m o 3 = (m.read o).toNat + 256 * (m.read (o + 1)).toNat + 65536 * (m.read (o + 2)).toNat := by
  simp only [memRead, Mem.bytesAt_succ, Mem.bytesAt_zero, littleEndian, Nat.add_assoc, Nat.reduceAdd]
  omega

theorem Mem.bytesAt_congr {m m' : Mem} {o n : Nat} (h : ∀ k, k < n → m.read (o + k) = m'.read (o + k)) :
    m.bytesAt o n = m'.bytesAt o n := by
  apply List.map_congr_left
  intro k hk
  exact h k (List.mem_range.mp hk)

/-- A field depends on its own bytes only. -/
theorem memRead_congr {m m' : Mem} {o n : Nat} (h : ∀ k, k < n → m.read (o + k) = m'.read (o + k)) :
    memRead m o n = memRead m' o n := by
  rw [memRead, memRead, Mem.bytesAt_congr h]

theorem Mem.bytesAt_splice_same (m : Mem) (o : Nat) (vs : List Byte) : (m.splice o vs).bytesAt o vs.length = vs := by
  apply List.ext_getElem
  · simp
  · intro k h1 h2
    simp [Mem.bytesAt, Mem.read_splice, h2, List.getD]

/-- A field read back after it is written holds the value modulo its width (R41, R112). -/
theorem memRead_memWrite_same (m : Mem) (o n v : Nat) : memRead (memWrite m o n v) o n = v % 256 ^ n := by
  have h := Mem.bytesAt_splice_same m o (toLittleEndian n v)
  rw [length_toLittleEndian] at h
  rw [memRead, memWrite, h, littleEndian_toLittleEndian]

/-- A field is untouched by a store that does not overlap it. -/
theorem memRead_splice_disjoint (m : Mem) {o n a : Nat} {vs : List Byte} (h : o + n ≤ a ∨ a + vs.length ≤ o) :
    memRead (m.splice a vs) o n = memRead m o n := by
  apply memRead_congr
  intro k hk
  rw [Mem.read_splice, if_neg (by omega)]

theorem memRead_memWrite_disjoint (m : Mem) {o n a k v : Nat} (h : o + n ≤ a ∨ a + k ≤ o) :
    memRead (memWrite m a k v) o n = memRead m o n := by
  rw [memWrite]
  exact memRead_splice_disjoint m (by simpa using h)

/-- A byte after a multi-byte write. -/
theorem read_memWrite (m : Mem) (o n v a : Nat) :
    (memWrite m o n v).read a =
      if o ≤ a ∧ a < o + n then BitVec.ofNat 8 (v / 256 ^ (a - o)) else m.read a := by
  rw [memWrite, Mem.read_splice, length_toLittleEndian]
  split
  · rename_i h
    exact getD_toLittleEndian (by omega) v
  · rfl

theorem wf_memWrite {m : Mem} (h : m.wf) (o n v : Nat) : (memWrite m o n v).wf := Mem.wf_splice h _ _

theorem within_memWrite {m : Mem} {o n v k : Nat} (h : m.within k) (ho : o + n ≤ k) : (memWrite m o n v).within k :=
  Mem.within_splice h (by simpa using ho)

end Sys2Proof.Machine
end

