-- ==== Sys2Proof/Laws/State.lean ====
section
/-! SUPPORT. Laws/State.lean: what each named update of State leaves in each field; each true by rfl, so that no proof
unfolds a record update. -/

namespace Sys2Proof.Machine

variable (s : State)

/-! ### `State.faultEntry` -/

@[simp] theorem State.faultEntry_par (c : Cause) (info : Reg32) : (s.faultEntry c info).par = s.par := rfl
@[simp] theorem State.faultEntry_phys (c : Cause) (info : Reg32) : (s.faultEntry c info).phys = s.phys := rfl
@[simp] theorem State.faultEntry_log (c : Cause) (info : Reg32) : (s.faultEntry c info).log = s.log := rfl
@[simp] theorem State.faultEntry_cfgDtype (c : Cause) (info : Reg32) : (s.faultEntry c info).cfgDtype = s.cfgDtype := rfl
@[simp] theorem State.faultEntry_cfgTotal (c : Cause) (info : Reg32) : (s.faultEntry c info).cfgTotal = s.cfgTotal := rfl
@[simp] theorem State.faultEntry_cfgCyl (c : Cause) (info : Reg32) : (s.faultEntry c info).cfgCyl = s.cfgCyl := rfl
@[simp] theorem State.faultEntry_cfgHeads (c : Cause) (info : Reg32) : (s.faultEntry c info).cfgHeads = s.cfgHeads := rfl
@[simp] theorem State.faultEntry_cfgSect (c : Cause) (info : Reg32) : (s.faultEntry c info).cfgSect = s.cfgSect := rfl
@[simp] theorem State.faultEntry_cfgIlv (c : Cause) (info : Reg32) : (s.faultEntry c info).cfgIlv = s.cfgIlv := rfl
@[simp] theorem State.faultEntry_cfgNfull (c : Cause) (info : Reg32) : (s.faultEntry c info).cfgNfull = s.cfgNfull := rfl
@[simp] theorem State.faultEntry_res (c : Cause) (info : Reg32) : (s.faultEntry c info).res = s.res := rfl
@[simp] theorem State.faultEntry_txt (c : Cause) (info : Reg32) : (s.faultEntry c info).txt = s.txt := rfl
@[simp] theorem State.faultEntry_txtLen (c : Cause) (info : Reg32) : (s.faultEntry c info).txtLen = s.txtLen := rfl
@[simp] theorem State.faultEntry_report (c : Cause) (info : Reg32) : (s.faultEntry c info).report = s.report := rfl
@[simp] theorem State.faultEntry_viol (c : Cause) (info : Reg32) : (s.faultEntry c info).viol = s.viol := rfl
@[simp] theorem State.faultEntry_violCount (c : Cause) (info : Reg32) : (s.faultEntry c info).violCount = s.violCount := rfl
@[simp] theorem State.faultEntry_fault (c : Cause) (info : Reg32) : (s.faultEntry c info).fault = c.code := rfl
@[simp] theorem State.faultEntry_faultInfo (c : Cause) (info : Reg32) : (s.faultEntry c info).faultInfo = info := rfl
@[simp] theorem State.faultEntry_inbox (c : Cause) (info : Reg32) : (s.faultEntry c info).inbox = s.inbox := rfl
@[simp] theorem State.faultEntry_reply (c : Cause) (info : Reg32) : (s.faultEntry c info).reply = s.reply := rfl
@[simp] theorem State.faultEntry_draws (c : Cause) (info : Reg32) : (s.faultEntry c info).draws = s.draws := rfl

/-! ### `State.withRes` -/

@[simp] theorem State.withRes_par (v : Nat) : (s.withRes v).par = s.par := rfl
@[simp] theorem State.withRes_phys (v : Nat) : (s.withRes v).phys = s.phys := rfl
@[simp] theorem State.withRes_log (v : Nat) : (s.withRes v).log = s.log := rfl
@[simp] theorem State.withRes_cfgDtype (v : Nat) : (s.withRes v).cfgDtype = s.cfgDtype := rfl
@[simp] theorem State.withRes_cfgTotal (v : Nat) : (s.withRes v).cfgTotal = s.cfgTotal := rfl
@[simp] theorem State.withRes_cfgCyl (v : Nat) : (s.withRes v).cfgCyl = s.cfgCyl := rfl
@[simp] theorem State.withRes_cfgHeads (v : Nat) : (s.withRes v).cfgHeads = s.cfgHeads := rfl
@[simp] theorem State.withRes_cfgSect (v : Nat) : (s.withRes v).cfgSect = s.cfgSect := rfl
@[simp] theorem State.withRes_cfgIlv (v : Nat) : (s.withRes v).cfgIlv = s.cfgIlv := rfl
@[simp] theorem State.withRes_cfgNfull (v : Nat) : (s.withRes v).cfgNfull = s.cfgNfull := rfl
@[simp] theorem State.withRes_res (v : Nat) : (s.withRes v).res = BitVec.ofNat 32 v := rfl
@[simp] theorem State.withRes_txt (v : Nat) : (s.withRes v).txt = s.txt := rfl
@[simp] theorem State.withRes_txtLen (v : Nat) : (s.withRes v).txtLen = s.txtLen := rfl
@[simp] theorem State.withRes_report (v : Nat) : (s.withRes v).report = s.report := rfl
@[simp] theorem State.withRes_viol (v : Nat) : (s.withRes v).viol = s.viol := rfl
@[simp] theorem State.withRes_violCount (v : Nat) : (s.withRes v).violCount = s.violCount := rfl
@[simp] theorem State.withRes_fault (v : Nat) : (s.withRes v).fault = s.fault := rfl
@[simp] theorem State.withRes_faultInfo (v : Nat) : (s.withRes v).faultInfo = s.faultInfo := rfl
@[simp] theorem State.withRes_inbox (v : Nat) : (s.withRes v).inbox = s.inbox := rfl
@[simp] theorem State.withRes_reply (v : Nat) : (s.withRes v).reply = s.reply := rfl
@[simp] theorem State.withRes_draws (v : Nat) : (s.withRes v).draws = s.draws := rfl

/-! ### `State.withText` -/

@[simp] theorem State.withText_par (t : List Char7) : (s.withText t).par = s.par := rfl
@[simp] theorem State.withText_phys (t : List Char7) : (s.withText t).phys = s.phys := rfl
@[simp] theorem State.withText_log (t : List Char7) : (s.withText t).log = s.log := rfl
@[simp] theorem State.withText_cfgDtype (t : List Char7) : (s.withText t).cfgDtype = s.cfgDtype := rfl
@[simp] theorem State.withText_cfgTotal (t : List Char7) : (s.withText t).cfgTotal = s.cfgTotal := rfl
@[simp] theorem State.withText_cfgCyl (t : List Char7) : (s.withText t).cfgCyl = s.cfgCyl := rfl
@[simp] theorem State.withText_cfgHeads (t : List Char7) : (s.withText t).cfgHeads = s.cfgHeads := rfl
@[simp] theorem State.withText_cfgSect (t : List Char7) : (s.withText t).cfgSect = s.cfgSect := rfl
@[simp] theorem State.withText_cfgIlv (t : List Char7) : (s.withText t).cfgIlv = s.cfgIlv := rfl
@[simp] theorem State.withText_cfgNfull (t : List Char7) : (s.withText t).cfgNfull = s.cfgNfull := rfl
@[simp] theorem State.withText_res (t : List Char7) : (s.withText t).res = s.res := rfl
@[simp] theorem State.withText_txt (t : List Char7) : (s.withText t).txt = t := rfl
@[simp] theorem State.withText_txtLen (t : List Char7) : (s.withText t).txtLen = BitVec.ofNat 32 t.length := rfl
@[simp] theorem State.withText_report (t : List Char7) : (s.withText t).report = s.report := rfl
@[simp] theorem State.withText_viol (t : List Char7) : (s.withText t).viol = s.viol := rfl
@[simp] theorem State.withText_violCount (t : List Char7) : (s.withText t).violCount = s.violCount := rfl
@[simp] theorem State.withText_fault (t : List Char7) : (s.withText t).fault = s.fault := rfl
@[simp] theorem State.withText_faultInfo (t : List Char7) : (s.withText t).faultInfo = s.faultInfo := rfl
@[simp] theorem State.withText_inbox (t : List Char7) : (s.withText t).inbox = s.inbox := rfl
@[simp] theorem State.withText_reply (t : List Char7) : (s.withText t).reply = s.reply := rfl
@[simp] theorem State.withText_draws (t : List Char7) : (s.withText t).draws = s.draws := rfl

/-! ### `State.withViol` -/

@[simp] theorem State.withViol_par (vs : List Violation) : (s.withViol vs).par = s.par := rfl
@[simp] theorem State.withViol_phys (vs : List Violation) : (s.withViol vs).phys = s.phys := rfl
@[simp] theorem State.withViol_log (vs : List Violation) : (s.withViol vs).log = s.log := rfl
@[simp] theorem State.withViol_cfgDtype (vs : List Violation) : (s.withViol vs).cfgDtype = s.cfgDtype := rfl
@[simp] theorem State.withViol_cfgTotal (vs : List Violation) : (s.withViol vs).cfgTotal = s.cfgTotal := rfl
@[simp] theorem State.withViol_cfgCyl (vs : List Violation) : (s.withViol vs).cfgCyl = s.cfgCyl := rfl
@[simp] theorem State.withViol_cfgHeads (vs : List Violation) : (s.withViol vs).cfgHeads = s.cfgHeads := rfl
@[simp] theorem State.withViol_cfgSect (vs : List Violation) : (s.withViol vs).cfgSect = s.cfgSect := rfl
@[simp] theorem State.withViol_cfgIlv (vs : List Violation) : (s.withViol vs).cfgIlv = s.cfgIlv := rfl
@[simp] theorem State.withViol_cfgNfull (vs : List Violation) : (s.withViol vs).cfgNfull = s.cfgNfull := rfl
@[simp] theorem State.withViol_res (vs : List Violation) : (s.withViol vs).res = s.res := rfl
@[simp] theorem State.withViol_txt (vs : List Violation) : (s.withViol vs).txt = s.txt := rfl
@[simp] theorem State.withViol_txtLen (vs : List Violation) : (s.withViol vs).txtLen = s.txtLen := rfl
@[simp] theorem State.withViol_report (vs : List Violation) : (s.withViol vs).report = s.report := rfl
@[simp] theorem State.withViol_viol (vs : List Violation) : (s.withViol vs).viol = vs := rfl
@[simp] theorem State.withViol_violCount (vs : List Violation) : (s.withViol vs).violCount = BitVec.ofNat 8 vs.length := rfl
@[simp] theorem State.withViol_fault (vs : List Violation) : (s.withViol vs).fault = s.fault := rfl
@[simp] theorem State.withViol_faultInfo (vs : List Violation) : (s.withViol vs).faultInfo = s.faultInfo := rfl
@[simp] theorem State.withViol_inbox (vs : List Violation) : (s.withViol vs).inbox = s.inbox := rfl
@[simp] theorem State.withViol_reply (vs : List Violation) : (s.withViol vs).reply = s.reply := rfl
@[simp] theorem State.withViol_draws (vs : List Violation) : (s.withViol vs).draws = s.draws := rfl

/-! ### `State.withLog` -/

@[simp] theorem State.withLog_par (m : Mem) : (s.withLog m).par = s.par := rfl
@[simp] theorem State.withLog_phys (m : Mem) : (s.withLog m).phys = s.phys := rfl
@[simp] theorem State.withLog_log (m : Mem) : (s.withLog m).log = m := rfl
@[simp] theorem State.withLog_cfgDtype (m : Mem) : (s.withLog m).cfgDtype = s.cfgDtype := rfl
@[simp] theorem State.withLog_cfgTotal (m : Mem) : (s.withLog m).cfgTotal = s.cfgTotal := rfl
@[simp] theorem State.withLog_cfgCyl (m : Mem) : (s.withLog m).cfgCyl = s.cfgCyl := rfl
@[simp] theorem State.withLog_cfgHeads (m : Mem) : (s.withLog m).cfgHeads = s.cfgHeads := rfl
@[simp] theorem State.withLog_cfgSect (m : Mem) : (s.withLog m).cfgSect = s.cfgSect := rfl
@[simp] theorem State.withLog_cfgIlv (m : Mem) : (s.withLog m).cfgIlv = s.cfgIlv := rfl
@[simp] theorem State.withLog_cfgNfull (m : Mem) : (s.withLog m).cfgNfull = s.cfgNfull := rfl
@[simp] theorem State.withLog_res (m : Mem) : (s.withLog m).res = s.res := rfl
@[simp] theorem State.withLog_txt (m : Mem) : (s.withLog m).txt = s.txt := rfl
@[simp] theorem State.withLog_txtLen (m : Mem) : (s.withLog m).txtLen = s.txtLen := rfl
@[simp] theorem State.withLog_report (m : Mem) : (s.withLog m).report = s.report := rfl
@[simp] theorem State.withLog_viol (m : Mem) : (s.withLog m).viol = s.viol := rfl
@[simp] theorem State.withLog_violCount (m : Mem) : (s.withLog m).violCount = s.violCount := rfl
@[simp] theorem State.withLog_fault (m : Mem) : (s.withLog m).fault = s.fault := rfl
@[simp] theorem State.withLog_faultInfo (m : Mem) : (s.withLog m).faultInfo = s.faultInfo := rfl
@[simp] theorem State.withLog_inbox (m : Mem) : (s.withLog m).inbox = s.inbox := rfl
@[simp] theorem State.withLog_reply (m : Mem) : (s.withLog m).reply = s.reply := rfl
@[simp] theorem State.withLog_draws (m : Mem) : (s.withLog m).draws = s.draws := rfl

/-! ### `State.withPhys` -/

@[simp] theorem State.withPhys_par (m : Mem) : (s.withPhys m).par = s.par := rfl
@[simp] theorem State.withPhys_phys (m : Mem) : (s.withPhys m).phys = m := rfl
@[simp] theorem State.withPhys_log (m : Mem) : (s.withPhys m).log = s.log := rfl
@[simp] theorem State.withPhys_cfgDtype (m : Mem) : (s.withPhys m).cfgDtype = s.cfgDtype := rfl
@[simp] theorem State.withPhys_cfgTotal (m : Mem) : (s.withPhys m).cfgTotal = s.cfgTotal := rfl
@[simp] theorem State.withPhys_cfgCyl (m : Mem) : (s.withPhys m).cfgCyl = s.cfgCyl := rfl
@[simp] theorem State.withPhys_cfgHeads (m : Mem) : (s.withPhys m).cfgHeads = s.cfgHeads := rfl
@[simp] theorem State.withPhys_cfgSect (m : Mem) : (s.withPhys m).cfgSect = s.cfgSect := rfl
@[simp] theorem State.withPhys_cfgIlv (m : Mem) : (s.withPhys m).cfgIlv = s.cfgIlv := rfl
@[simp] theorem State.withPhys_cfgNfull (m : Mem) : (s.withPhys m).cfgNfull = s.cfgNfull := rfl
@[simp] theorem State.withPhys_res (m : Mem) : (s.withPhys m).res = s.res := rfl
@[simp] theorem State.withPhys_txt (m : Mem) : (s.withPhys m).txt = s.txt := rfl
@[simp] theorem State.withPhys_txtLen (m : Mem) : (s.withPhys m).txtLen = s.txtLen := rfl
@[simp] theorem State.withPhys_report (m : Mem) : (s.withPhys m).report = s.report := rfl
@[simp] theorem State.withPhys_viol (m : Mem) : (s.withPhys m).viol = s.viol := rfl
@[simp] theorem State.withPhys_violCount (m : Mem) : (s.withPhys m).violCount = s.violCount := rfl
@[simp] theorem State.withPhys_fault (m : Mem) : (s.withPhys m).fault = s.fault := rfl
@[simp] theorem State.withPhys_faultInfo (m : Mem) : (s.withPhys m).faultInfo = s.faultInfo := rfl
@[simp] theorem State.withPhys_inbox (m : Mem) : (s.withPhys m).inbox = s.inbox := rfl
@[simp] theorem State.withPhys_reply (m : Mem) : (s.withPhys m).reply = s.reply := rfl
@[simp] theorem State.withPhys_draws (m : Mem) : (s.withPhys m).draws = s.draws := rfl

/-! ### `State.withReport` -/

@[simp] theorem State.withReport_par (r : Report) : (s.withReport r).par = s.par := rfl
@[simp] theorem State.withReport_phys (r : Report) : (s.withReport r).phys = s.phys := rfl
@[simp] theorem State.withReport_log (r : Report) : (s.withReport r).log = s.log := rfl
@[simp] theorem State.withReport_cfgDtype (r : Report) : (s.withReport r).cfgDtype = s.cfgDtype := rfl
@[simp] theorem State.withReport_cfgTotal (r : Report) : (s.withReport r).cfgTotal = s.cfgTotal := rfl
@[simp] theorem State.withReport_cfgCyl (r : Report) : (s.withReport r).cfgCyl = s.cfgCyl := rfl
@[simp] theorem State.withReport_cfgHeads (r : Report) : (s.withReport r).cfgHeads = s.cfgHeads := rfl
@[simp] theorem State.withReport_cfgSect (r : Report) : (s.withReport r).cfgSect = s.cfgSect := rfl
@[simp] theorem State.withReport_cfgIlv (r : Report) : (s.withReport r).cfgIlv = s.cfgIlv := rfl
@[simp] theorem State.withReport_cfgNfull (r : Report) : (s.withReport r).cfgNfull = s.cfgNfull := rfl
@[simp] theorem State.withReport_res (r : Report) : (s.withReport r).res = s.res := rfl
@[simp] theorem State.withReport_txt (r : Report) : (s.withReport r).txt = s.txt := rfl
@[simp] theorem State.withReport_txtLen (r : Report) : (s.withReport r).txtLen = s.txtLen := rfl
@[simp] theorem State.withReport_report (r : Report) : (s.withReport r).report = r := rfl
@[simp] theorem State.withReport_viol (r : Report) : (s.withReport r).viol = s.viol := rfl
@[simp] theorem State.withReport_violCount (r : Report) : (s.withReport r).violCount = s.violCount := rfl
@[simp] theorem State.withReport_fault (r : Report) : (s.withReport r).fault = s.fault := rfl
@[simp] theorem State.withReport_faultInfo (r : Report) : (s.withReport r).faultInfo = s.faultInfo := rfl
@[simp] theorem State.withReport_inbox (r : Report) : (s.withReport r).inbox = s.inbox := rfl
@[simp] theorem State.withReport_reply (r : Report) : (s.withReport r).reply = s.reply := rfl
@[simp] theorem State.withReport_draws (r : Report) : (s.withReport r).draws = s.draws := rfl

/-! ### `State.withReportInvalid` -/

@[simp] theorem State.withReportInvalid_par : s.withReportInvalid.par = s.par := rfl
@[simp] theorem State.withReportInvalid_phys : s.withReportInvalid.phys = s.phys := rfl
@[simp] theorem State.withReportInvalid_log : s.withReportInvalid.log = s.log := rfl
@[simp] theorem State.withReportInvalid_cfgDtype : s.withReportInvalid.cfgDtype = s.cfgDtype := rfl
@[simp] theorem State.withReportInvalid_cfgTotal : s.withReportInvalid.cfgTotal = s.cfgTotal := rfl
@[simp] theorem State.withReportInvalid_cfgCyl : s.withReportInvalid.cfgCyl = s.cfgCyl := rfl
@[simp] theorem State.withReportInvalid_cfgHeads : s.withReportInvalid.cfgHeads = s.cfgHeads := rfl
@[simp] theorem State.withReportInvalid_cfgSect : s.withReportInvalid.cfgSect = s.cfgSect := rfl
@[simp] theorem State.withReportInvalid_cfgIlv : s.withReportInvalid.cfgIlv = s.cfgIlv := rfl
@[simp] theorem State.withReportInvalid_cfgNfull : s.withReportInvalid.cfgNfull = s.cfgNfull := rfl
@[simp] theorem State.withReportInvalid_res : s.withReportInvalid.res = s.res := rfl
@[simp] theorem State.withReportInvalid_txt : s.withReportInvalid.txt = s.txt := rfl
@[simp] theorem State.withReportInvalid_txtLen : s.withReportInvalid.txtLen = s.txtLen := rfl
@[simp] theorem State.withReportInvalid_report : s.withReportInvalid.report = { Config.freeReport s.draws with valid := false } := rfl
@[simp] theorem State.withReportInvalid_viol : s.withReportInvalid.viol = s.viol := rfl
@[simp] theorem State.withReportInvalid_violCount : s.withReportInvalid.violCount = s.violCount := rfl
@[simp] theorem State.withReportInvalid_fault : s.withReportInvalid.fault = s.fault := rfl
@[simp] theorem State.withReportInvalid_faultInfo : s.withReportInvalid.faultInfo = s.faultInfo := rfl
@[simp] theorem State.withReportInvalid_inbox : s.withReportInvalid.inbox = s.inbox := rfl
@[simp] theorem State.withReportInvalid_reply : s.withReportInvalid.reply = s.reply := rfl
@[simp] theorem State.withReportInvalid_draws : s.withReportInvalid.draws = s.draws + 1 := rfl

/-! ### `State.accept` -/

@[simp] theorem State.accept_par (rest : List HostAction) : (s.accept rest).par = s.par := rfl
@[simp] theorem State.accept_phys (rest : List HostAction) : (s.accept rest).phys = s.phys := rfl
@[simp] theorem State.accept_log (rest : List HostAction) : (s.accept rest).log = s.log := rfl
@[simp] theorem State.accept_cfgDtype (rest : List HostAction) : (s.accept rest).cfgDtype = s.cfgDtype := rfl
@[simp] theorem State.accept_cfgTotal (rest : List HostAction) : (s.accept rest).cfgTotal = s.cfgTotal := rfl
@[simp] theorem State.accept_cfgCyl (rest : List HostAction) : (s.accept rest).cfgCyl = s.cfgCyl := rfl
@[simp] theorem State.accept_cfgHeads (rest : List HostAction) : (s.accept rest).cfgHeads = s.cfgHeads := rfl
@[simp] theorem State.accept_cfgSect (rest : List HostAction) : (s.accept rest).cfgSect = s.cfgSect := rfl
@[simp] theorem State.accept_cfgIlv (rest : List HostAction) : (s.accept rest).cfgIlv = s.cfgIlv := rfl
@[simp] theorem State.accept_cfgNfull (rest : List HostAction) : (s.accept rest).cfgNfull = s.cfgNfull := rfl
@[simp] theorem State.accept_res (rest : List HostAction) : (s.accept rest).res = s.res := rfl
@[simp] theorem State.accept_txt (rest : List HostAction) : (s.accept rest).txt = s.txt := rfl
@[simp] theorem State.accept_txtLen (rest : List HostAction) : (s.accept rest).txtLen = s.txtLen := rfl
@[simp] theorem State.accept_report (rest : List HostAction) : (s.accept rest).report = s.report := rfl
@[simp] theorem State.accept_viol (rest : List HostAction) : (s.accept rest).viol = s.viol := rfl
@[simp] theorem State.accept_violCount (rest : List HostAction) : (s.accept rest).violCount = s.violCount := rfl
@[simp] theorem State.accept_fault (rest : List HostAction) : (s.accept rest).fault = s.fault := rfl
@[simp] theorem State.accept_faultInfo (rest : List HostAction) : (s.accept rest).faultInfo = s.faultInfo := rfl
@[simp] theorem State.accept_inbox (rest : List HostAction) : (s.accept rest).inbox = rest := rfl
@[simp] theorem State.accept_reply (rest : List HostAction) : (s.accept rest).reply = .none := rfl
@[simp] theorem State.accept_draws (rest : List HostAction) : (s.accept rest).draws = s.draws := rfl

/-! ### `State.withReply` -/

@[simp] theorem State.withReply_par (r : HostReply) : (s.withReply r).par = s.par := rfl
@[simp] theorem State.withReply_phys (r : HostReply) : (s.withReply r).phys = s.phys := rfl
@[simp] theorem State.withReply_log (r : HostReply) : (s.withReply r).log = s.log := rfl
@[simp] theorem State.withReply_cfgDtype (r : HostReply) : (s.withReply r).cfgDtype = s.cfgDtype := rfl
@[simp] theorem State.withReply_cfgTotal (r : HostReply) : (s.withReply r).cfgTotal = s.cfgTotal := rfl
@[simp] theorem State.withReply_cfgCyl (r : HostReply) : (s.withReply r).cfgCyl = s.cfgCyl := rfl
@[simp] theorem State.withReply_cfgHeads (r : HostReply) : (s.withReply r).cfgHeads = s.cfgHeads := rfl
@[simp] theorem State.withReply_cfgSect (r : HostReply) : (s.withReply r).cfgSect = s.cfgSect := rfl
@[simp] theorem State.withReply_cfgIlv (r : HostReply) : (s.withReply r).cfgIlv = s.cfgIlv := rfl
@[simp] theorem State.withReply_cfgNfull (r : HostReply) : (s.withReply r).cfgNfull = s.cfgNfull := rfl
@[simp] theorem State.withReply_res (r : HostReply) : (s.withReply r).res = s.res := rfl
@[simp] theorem State.withReply_txt (r : HostReply) : (s.withReply r).txt = s.txt := rfl
@[simp] theorem State.withReply_txtLen (r : HostReply) : (s.withReply r).txtLen = s.txtLen := rfl
@[simp] theorem State.withReply_report (r : HostReply) : (s.withReply r).report = s.report := rfl
@[simp] theorem State.withReply_viol (r : HostReply) : (s.withReply r).viol = s.viol := rfl
@[simp] theorem State.withReply_violCount (r : HostReply) : (s.withReply r).violCount = s.violCount := rfl
@[simp] theorem State.withReply_fault (r : HostReply) : (s.withReply r).fault = s.fault := rfl
@[simp] theorem State.withReply_faultInfo (r : HostReply) : (s.withReply r).faultInfo = s.faultInfo := rfl
@[simp] theorem State.withReply_inbox (r : HostReply) : (s.withReply r).inbox = s.inbox := rfl
@[simp] theorem State.withReply_reply (r : HostReply) : (s.withReply r).reply = r := rfl
@[simp] theorem State.withReply_draws (r : HostReply) : (s.withReply r).draws = s.draws := rfl

/-! ### `State.withFetchWord` -/

@[simp] theorem State.withFetchWord_par (nbits w : Nat) : (s.withFetchWord nbits w).par = s.par := rfl
@[simp] theorem State.withFetchWord_phys (nbits w : Nat) : (s.withFetchWord nbits w).phys = s.phys := rfl
@[simp] theorem State.withFetchWord_log (nbits w : Nat) : (s.withFetchWord nbits w).log = s.log := rfl
@[simp] theorem State.withFetchWord_cfgDtype (nbits w : Nat) : (s.withFetchWord nbits w).cfgDtype = s.cfgDtype := rfl
@[simp] theorem State.withFetchWord_cfgTotal (nbits w : Nat) : (s.withFetchWord nbits w).cfgTotal = s.cfgTotal := rfl
@[simp] theorem State.withFetchWord_cfgCyl (nbits w : Nat) : (s.withFetchWord nbits w).cfgCyl = s.cfgCyl := rfl
@[simp] theorem State.withFetchWord_cfgHeads (nbits w : Nat) : (s.withFetchWord nbits w).cfgHeads = s.cfgHeads := rfl
@[simp] theorem State.withFetchWord_cfgSect (nbits w : Nat) : (s.withFetchWord nbits w).cfgSect = s.cfgSect := rfl
@[simp] theorem State.withFetchWord_cfgIlv (nbits w : Nat) : (s.withFetchWord nbits w).cfgIlv = s.cfgIlv := rfl
@[simp] theorem State.withFetchWord_cfgNfull (nbits w : Nat) : (s.withFetchWord nbits w).cfgNfull = s.cfgNfull := rfl
@[simp] theorem State.withFetchWord_res (nbits w : Nat) : (s.withFetchWord nbits w).res = s.res := rfl
@[simp] theorem State.withFetchWord_txt (nbits w : Nat) : (s.withFetchWord nbits w).txt = s.txt := rfl
@[simp] theorem State.withFetchWord_txtLen (nbits w : Nat) : (s.withFetchWord nbits w).txtLen = s.txtLen := rfl
@[simp] theorem State.withFetchWord_report (nbits w : Nat) : (s.withFetchWord nbits w).report = s.report := rfl
@[simp] theorem State.withFetchWord_viol (nbits w : Nat) : (s.withFetchWord nbits w).viol = s.viol := rfl
@[simp] theorem State.withFetchWord_violCount (nbits w : Nat) : (s.withFetchWord nbits w).violCount = s.violCount := rfl
@[simp] theorem State.withFetchWord_fault (nbits w : Nat) : (s.withFetchWord nbits w).fault = s.fault := rfl
@[simp] theorem State.withFetchWord_faultInfo (nbits w : Nat) : (s.withFetchWord nbits w).faultInfo = s.faultInfo := rfl
@[simp] theorem State.withFetchWord_inbox (nbits w : Nat) : (s.withFetchWord nbits w).inbox = issueFirst nbits w s.inbox := rfl
@[simp] theorem State.withFetchWord_reply (nbits w : Nat) : (s.withFetchWord nbits w).reply = s.reply := rfl
@[simp] theorem State.withFetchWord_draws (nbits w : Nat) : (s.withFetchWord nbits w).draws = s.draws := rfl

/-! ### The selected buffer -/

@[simp] theorem State.buffer_log : s.buffer .log = s.log := rfl
@[simp] theorem State.buffer_phys : s.buffer .phys = s.phys := rfl
@[simp] theorem State.withBuffer_log (m : Mem) : s.withBuffer .log m = s.withLog m := rfl
@[simp] theorem State.withBuffer_phys (m : Mem) : s.withBuffer .phys m = s.withPhys m := rfl

theorem State.buffer_withBuffer (b : Buf) (m : Mem) : (s.withBuffer b m).buffer b = m := by cases b <;> rfl

theorem State.buffer_withBuffer_ne (b c : Buf) (m : Mem) (h : c ≠ b) : (s.withBuffer b m).buffer c = s.buffer c := by
  cases b <;> cases c <;> first | rfl | exact absurd rfl h

/-! ### Reset -/

@[simp] theorem State.hostReset_par : s.hostReset.par = s.par := by simp only [State.hostReset]
@[simp] theorem State.hostReset_phys : s.hostReset.phys = freeBlock s.draws := rfl
@[simp] theorem State.hostReset_log : s.hostReset.log = freeBlock (s.draws + 1) := rfl
@[simp] theorem State.hostReset_txtLen : s.hostReset.txtLen = Config.freeReg s.draws 0x0C := rfl
@[simp] theorem State.hostReset_txt : s.hostReset.txt = freeText s.draws (Config.freeReg s.draws 0x0C) := rfl
@[simp] theorem State.hostReset_report :
    s.hostReset.report = { Config.freeReport s.draws with valid := false } := rfl
@[simp] theorem State.hostReset_viol : s.hostReset.viol = [] := rfl
@[simp] theorem State.hostReset_violCount : s.hostReset.violCount = 0 := rfl
@[simp] theorem State.hostReset_fault : s.hostReset.fault = 0 := rfl
@[simp] theorem State.hostReset_faultInfo : s.hostReset.faultInfo = 0 := rfl
@[simp] theorem State.hostReset_inbox : s.hostReset.inbox = s.inbox := by simp only [State.hostReset]
@[simp] theorem State.hostReset_reply : s.hostReset.reply = .none := rfl
@[simp] theorem State.hostReset_draws : s.hostReset.draws = s.draws + 2 := rfl

end Sys2Proof.Machine
end

