-- ==== Sys2Proof/Laws/Ops.lean ====
section
/-! SUPPORT. Laws/Ops.lean: for each shared operation of the machine, what it can do, said once. -/

namespace Sys2Proof.Machine

/-! ### The range test, GET and SET -/

/-- All that a range-checked access can do: fault entry alone, or the access. -/
theorem checked_cases (ofs n : Nat) (s : State) (f : State → State) :
    (s.par.bufLen < ofs + n ∧ checked ofs n s f = .next (s.faultEntry .outOfRange (BitVec.ofNat 32 ofs))) ∨
      (ofs + n ≤ s.par.bufLen ∧ checked ofs n s f = .next (f s)) := by
  unfold checked
  by_cases h : s.par.bufLen < ofs + n
  · exact .inl ⟨h, if_pos h⟩
  · exact .inr ⟨Nat.le_of_not_lt h, if_neg h⟩

theorem checked_in (f : State → State) {ofs n : Nat} {s : State} (h : ofs + n ≤ s.par.bufLen) :
    checked ofs n s f = .next (f s) := by
  rw [checked, if_neg (Nat.not_lt.mpr h)]

theorem checked_out (f : State → State) {ofs n : Nat} {s : State} (h : s.par.bufLen < ofs + n) :
    checked ofs n s f = .next (s.faultEntry .outOfRange (BitVec.ofNat 32 ofs)) := by
  rw [checked, if_pos h]

theorem getField_in {n : Nat} {buf : Buf} {ofs : Nat} {s : State} (h : ofs + n ≤ s.par.bufLen) :
    getField n buf ofs s = .next (s.withRes (memRead (s.buffer buf) ofs n)) := checked_in _ h

theorem setField_in {n : Nat} {buf : Buf} {ofs v : Nat} {s : State} (h : ofs + n ≤ s.par.bufLen) :
    setField n buf ofs v s = .next (s.withBuffer buf (memWrite (s.buffer buf) ofs n v)) := checked_in _ h

/-! ### Text -/

@[simp] theorem length_getText (p : Params) (m : Mem) (ofs len : Nat) : (getText p m ofs len).length = len := by
  simp [getText]

/-! ### Padding -/

theorem cleanPadding_iff (s : State) (m : Mem) :
    cleanPadding s m ↔ m.firstNonZero Config.blockLen s.par.bufLen = none := by
  rw [Mem.firstNonZero_eq_none]
  exact ⟨fun h k h1 h2 => h k ⟨h1, h2⟩, fun h k hk => h k hk.1 hk.2⟩

theorem firstDirty_iff (s : State) (m : Mem) (k : Nat) :
    firstDirty s m k ↔ m.firstNonZero Config.blockLen s.par.bufLen = some k := by
  rw [Mem.firstNonZero_eq_some]
  rfl

/-- The padding check passes exactly when both buffers are clean. -/
theorem paddingFault_eq_none (src dst : Mem) (n : Nat) :
    paddingFault src dst n = none ↔
      src.firstNonZero Config.blockLen n = none ∧ dst.firstNonZero Config.blockLen n = none := by
  unfold paddingFault
  cases h : src.firstNonZero Config.blockLen n with
  | some k => simp
  | none => simp

/-! ### The transforms and the checksum: what they can do -/

theorem execDeinterleave_cases (s : State) :
    (∃ info, paddingFault s.phys s.log s.par.bufLen = some info ∧
        execDeinterleave s = .next (s.faultEntry .paddingNonZero info)) ∨
      (paddingFault s.phys s.log s.par.bufLen = none ∧
        execDeinterleave s = .next (s.withLog (s.log.splice 0 (deinterleaved s.phys)))) := by
  unfold execDeinterleave
  cases paddingFault s.phys s.log s.par.bufLen with
  | some info => exact .inl ⟨info, rfl, rfl⟩
  | none => exact .inr ⟨rfl, rfl⟩

theorem execInterleave_cases (s : State) :
    (∃ info, paddingFault s.log s.phys s.par.bufLen = some info ∧
        execInterleave s = .next (s.faultEntry .paddingNonZero info)) ∨
      (paddingFault s.log s.phys s.par.bufLen = none ∧
        execInterleave s = .next (s.withPhys (s.phys.splice 0 (interleaved s.log)))) := by
  unfold execInterleave
  cases paddingFault s.log s.phys s.par.bufLen with
  | some info => exact .inl ⟨info, rfl, rfl⟩
  | none => exact .inr ⟨rfl, rfl⟩

@[simp] theorem length_deinterleaved (m : Mem) : (deinterleaved m).length = 512 := by simp [deinterleaved]

theorem getD_deinterleaved (m : Mem) {l : Nat} (h : l < 512) :
    (deinterleaved m).getD l 0 = m.read (physicalOf l) := by
  simp [deinterleaved, List.getD, h]

/-- The sector INTERLEAVE writes, unit by unit, is byte by byte `PHYS[p] <- LOG[L(p)]` (R125). -/
theorem interleaved_eq (m : Mem) : interleaved m = (List.range 512).map fun p => m.read (logicalOf p) := by
  have key : ∀ n, ((List.range n).flatMap fun u => [m.read (unitOfs u), m.read (unitOfs u + 1)]) =
      (List.range (2 * n)).map fun p => m.read (logicalOf p) := by
    intro n
    induction n with
    | zero => rfl
    | succ n ih =>
      have h0 : logicalOf (2 * n) = unitOfs n := by unfold logicalOf unitOfs; omega
      have h1 : logicalOf (2 * n + 1) = unitOfs n + 1 := by unfold logicalOf unitOfs; omega
      rw [List.range_succ, List.flatMap_append, ih, show 2 * (n + 1) = 2 * n + 1 + 1 by omega, List.range_succ,
        List.range_succ, List.map_append, List.map_append]
      simp [h0, h1]
  exact key 256

@[simp] theorem length_interleaved (m : Mem) : (interleaved m).length = 512 := by simp [interleaved_eq]

theorem getD_interleaved (m : Mem) {p : Nat} (h : p < 512) : (interleaved m).getD p 0 = m.read (logicalOf p) := by
  simp [interleaved_eq, List.getD, h]

/-! ### BUILD and ANALYZE: what they can do -/

theorem execBuild_cases (s : State) :
    (s.cfgNfull = 0 ∧ execBuild s = .refused .builderCountZero) ∨
      (s.cfgNfull ≠ 0 ∧ execBuild s = .next ((s.withLog (buildTable s)).withViol (buildWarnings s))) := by
  unfold execBuild
  by_cases h : s.cfgNfull = 0
  · exact .inl ⟨h, if_pos h⟩
  · exact .inr ⟨h, if_neg h⟩

/-- A completed BUILD, from the hypothesis of the statements. -/
theorem execBuild_of_count {s : State} (h : s.cfgNfull ≠ 0) :
    execBuild s = .next ((s.withLog (buildTable s)).withViol (buildWarnings s)) := if_neg h

/-- A refused BUILD. -/
theorem execBuild_of_zero {s : State} (h : s.cfgNfull = 0) : execBuild s = .refused .builderCountZero := if_pos h

/-- The four ways ANALYZE can end (R202). -/
theorem execAnalyze_cases (s : State) :
    (hdrMagic.get s.log ≠ Config.magic ∧
        execAnalyze s = analyzeFault s .badMagic (hdrMagic.get s.log)
          (violation .fBadMagic none Config.magic (hdrMagic.get s.log))) ∨
      (hdrMagic.get s.log = Config.magic ∧
        ∃ k, s.log.firstNonZero Config.blockLen s.par.bufLen = some k ∧
          execAnalyze s = analyzeFault s .trailingNonZero k (violation .fTrailingNonZero none 0 (s.log.read k).toNat)) ∨
      (hdrMagic.get s.log = Config.magic ∧ s.log.firstNonZero Config.blockLen s.par.bufLen = none ∧
        (hdrHeads.get s.log = 0 ∨ hdrSectors.get s.log = 0) ∧ execAnalyze s = .refused .zeroDivisor) ∨
      (hdrMagic.get s.log = Config.magic ∧ s.log.firstNonZero Config.blockLen s.par.bufLen = none ∧
        hdrHeads.get s.log ≠ 0 ∧ hdrSectors.get s.log ≠ 0 ∧
        execAnalyze s =
          .next ((s.withReport (analyzeReport s.par s.log)).withViol (analyzeWarnings s.par s.log))) := by
  unfold execAnalyze
  by_cases hm : hdrMagic.get s.log = Config.magic
  · rw [if_neg (not_not.mpr hm)]
    cases hk : s.log.firstNonZero Config.blockLen s.par.bufLen with
    | some k => exact .inr (.inl ⟨hm, k, rfl, rfl⟩)
    | none =>
      by_cases hz : hdrHeads.get s.log = 0 ∨ hdrSectors.get s.log = 0
      · exact .inr (.inr (.inl ⟨hm, rfl, hz, if_pos hz⟩))
      · obtain ⟨h1, h2⟩ := not_or.mp hz
        exact .inr (.inr (.inr ⟨hm, rfl, h1, h2, if_neg hz⟩))
  · exact .inl ⟨hm, if_pos hm⟩

/-- What `analyzable` says in the words of the meaning. -/
theorem analyzable_iff (s : State) :
    analyzable s ↔ hdrMagic.get s.log = Config.magic ∧ s.log.firstNonZero Config.blockLen s.par.bufLen = none ∧
      hdrHeads.get s.log ≠ 0 ∧ hdrSectors.get s.log ≠ 0 := by
  have e1 : hdrHeads.get s.log = (s.log.read 0x0B).toNat := memRead_one _ _
  have e2 : hdrSectors.get s.log = (s.log.read 0x0C).toNat := memRead_one _ _
  have hz : ∀ b : Byte, b.toNat ≠ 0 ↔ b ≠ 0 := fun b => by
    constructor
    · intro h e; exact h (by rw [e]; rfl)
    · intro h e; exact h (BitVec.eq_of_toNat_eq (by simpa using e))
  unfold analyzable
  rw [e1, e2, hz, hz, cleanPadding_iff]
  exact Iff.rfl

/-- A completed ANALYZE, from the hypotheses of the statements. -/
theorem execAnalyze_of_analyzable {s : State} (h : analyzable s) :
    execAnalyze s = .next ((s.withReport (analyzeReport s.par s.log)).withViol (analyzeWarnings s.par s.log)) := by
  obtain ⟨h1, h2, h3, h4⟩ := (analyzable_iff s).mp h
  rcases execAnalyze_cases s with ⟨a, _⟩ | ⟨_, k, a, _⟩ | ⟨_, _, a | a, _⟩ | ⟨_, _, _, _, a⟩
  · exact absurd h1 a
  · rw [h2] at a; exact absurd a (by simp)
  · exact absurd a h3
  · exact absurd a h4
  · exact a

/-! ### The host's port -/

/-- All that an action can do that a halted engine ignores. -/
theorem ifRunning_cases (s : State) (f : State → Out) :
    (s.fault ≠ 0 ∧ ifRunning s f = .next s) ∨ (s.fault = 0 ∧ ifRunning s f = f s) := by
  unfold ifRunning State.halted
  by_cases h : s.fault = 0
  · exact .inr ⟨h, by simp [h]⟩
  · exact .inl ⟨h, by rw [if_pos (by simpa using h)]⟩

theorem ifRunning_running (f : State → Out) {s : State} (h : s.fault = 0) : ifRunning s f = f s := by
  rcases ifRunning_cases s f with ⟨a, _⟩ | ⟨_, a⟩
  · exact absurd h a
  · exact a

theorem ifRunning_halted (f : State → Out) {s : State} (h : s.fault ≠ 0) : ifRunning s f = .next s := by
  rcases ifRunning_cases s f with ⟨_, a⟩ | ⟨a, _⟩
  · exact a
  · exact absurd a h

/-- A step takes the next host action off the list and performs it, or waits. -/
theorem step_cases (s : State) :
    (s.inbox = [] ∧ step s = .next s) ∨ ∃ a rest, s.inbox = a :: rest ∧ step s = hostAct a (s.accept rest) := by
  unfold step nextAction
  cases h : s.inbox with
  | nil => exact .inl ⟨rfl, rfl⟩
  | cons a rest => exact .inr ⟨a, rest, rfl, rfl⟩

/-- A register write sets one configuration register or nothing. -/
theorem writeRegister_cases (s : State) (n : Nat) (v : Reg32) :
    s.writeRegister n v = { s with cfgDtype := v } ∨ s.writeRegister n v = { s with cfgTotal := v } ∨
      s.writeRegister n v = { s with cfgCyl := v } ∨ s.writeRegister n v = { s with cfgHeads := v } ∨
      s.writeRegister n v = { s with cfgSect := v } ∨ s.writeRegister n v = { s with cfgIlv := v } ∨
      s.writeRegister n v = { s with cfgNfull := v } ∨ s.writeRegister n v = s := by
  unfold State.writeRegister
  split_ifs <;> simp

/-- The data bytes of a buffer after a host reset are 512 at most: its padding is zero. -/
theorem freeBlock_within (d : Nat) : (freeBlock d).within 512 :=
  Mem.within_splice (Mem.within_nil 512) (by simp)

theorem freeBlock_wf (d : Nat) : (freeBlock d).wf := Mem.wf_splice Mem.wf_nil _ _

@[simp] theorem length_freeText (d : Nat) (n : Reg32) : (freeText d n).length = n.toNat := by simp [freeText]

/-! ### The three memory invariants under each meaning's store -/

theorem length_slotText (i : Nat) : (slotText i).length = 10 := by
  unfold slotText decimal
  split <;> rfl

theorem length_slotName (i : Nat) : (slotName i).length = 10 := by simp [slotName, length_slotText]

theorem length_buildSlots (n pool start : Nat) : (buildSlots n pool start).length = n := by
  induction n generalizing pool start with
  | zero => rfl
  | succ n ih => simp [buildSlots, ih]

theorem wf_writeSlot {m : Mem} (h : m.wf) (i : Nat) (t : Slot) : (writeSlot m i t).wf :=
  Mem.wf_splice (Mem.wf_splice (wf_memWrite (wf_memWrite h _ _ _) _ _ _) _ _) _ _

theorem within_writeSlot {m : Mem} {n i : Nat} (h : m.within n) (hn : 512 ≤ n) (hi : i < 16) (t : Slot) :
    (writeSlot m i t).within n := by
  have l := length_slotName i
  have e : entryOfs i = 0x100 + 16 * i := rfl
  unfold writeSlot
  refine Mem.within_splice (Mem.within_splice (within_memWrite (within_memWrite h ?_) ?_) ?_) ?_ <;>
    simp only [FieldSpec.inEntry, entStart, entSize, entFlags, entName, l, e, List.length_singleton] <;> omega

theorem wf_writeSlots {m : Mem} (h : m.wf) (i : Nat) (ts : List Slot) : (writeSlots m i ts).wf := by
  induction ts generalizing m i with
  | nil => exact h
  | cons t ts ih => exact ih (wf_writeSlot h i t) (i + 1)

theorem within_writeSlots {m : Mem} {n i : Nat} {ts : List Slot} (h : m.within n) (hn : 512 ≤ n)
    (hi : i + ts.length ≤ 16) : (writeSlots m i ts).within n := by
  induction ts generalizing m i with
  | nil => exact h
  | cons t ts ih =>
    simp only [List.length_cons] at hi
    exact ih (within_writeSlot h hn (by omega) t) (by omega)

theorem wf_buildHeader {s : State} {m : Mem} (h : m.wf) : (buildHeader s m).wf := by
  unfold buildHeader
  simp only [FieldSpec.put]
  iterate 13 apply Mem.wf_splice
  exact h

/-- A field of the header ends where the header ends, or before. -/
theorem header_field_fits : ∀ f ∈ headerFields, f.ofs + f.width ≤ 0x100 := by decide

theorem within_put {f : FieldSpec} (hf : f ∈ headerFields) {m : Mem} {n : Nat} (h : m.within n) (hn : 512 ≤ n)
    (v : Nat) : (f.put m v).within n :=
  within_memWrite h (le_trans (header_field_fits f hf) (by omega))

theorem within_put_bytes {f : FieldSpec} (hf : f ∈ headerFields) {m : Mem} {n : Nat} (h : m.within n) (hn : 512 ≤ n)
    {vs : List Byte} (hv : vs.length = f.width) : (m.splice f.ofs vs).within n :=
  Mem.within_splice h (by rw [hv]; exact le_trans (header_field_fits f hf) (by omega))

theorem within_buildHeader {s : State} {m : Mem} {n : Nat} (h : m.within n) (hn : 512 ≤ n) :
    (buildHeader s m).within n := by
  have h0 : (m.splice 0 (List.replicate Config.blockLen 0)).within n :=
    Mem.within_splice h (by rw [List.length_replicate]; simpa using hn)
  have h1 := within_put (f := hdrMagic) (by simp [headerFields]) h0 hn Config.magic
  have h2 := within_put_bytes (f := hdrRsv08) (by simp [headerFields]) h1 hn (vs := [rsvdAt s.par 0x08]) rfl
  have h3 := within_put_bytes (f := hdrRsv0F) (by simp [headerFields]) h2 hn
    (vs := [rsvdAt s.par 0x0F, rsvdAt s.par 0x10]) rfl
  have h4 := within_put_bytes (f := hdrRsv15) (by simp [headerFields]) h3 hn
    (vs := (List.range hdrRsv15.width).map fun k => rsvdAt s.par (0x15 + k)) (by rw [List.length_map, List.length_range])
  have h5 := within_put (f := hdrDriveType) (by simp [headerFields]) h4 hn s.cfgDtype.toNat
  have h6 := within_put (f := hdrTotal) (by simp [headerFields]) h5 hn s.cfgTotal.toNat
  have h7 := within_put (f := hdrCylinders) (by simp [headerFields]) h6 hn s.cfgCyl.toNat
  have h8 := within_put (f := hdrHeads) (by simp [headerFields]) h7 hn s.cfgHeads.toNat
  have h9 := within_put (f := hdrSectors) (by simp [headerFields]) h8 hn s.cfgSect.toNat
  have h10 := within_put (f := hdrInterleave) (by simp [headerFields]) h9 hn s.cfgIlv.toNat
  have h11 := within_put (f := hdrBoot) (by simp [headerFields]) h10 hn Config.bootDefault
  exact within_put_bytes (f := hdrSlots) (by simp [headerFields]) h11 hn (List.length_replicate ..)

theorem wf_buildTable {s : State} (h : s.log.wf) : (buildTable s).wf :=
  wf_memWrite (wf_writeSlots (wf_buildHeader h) _ _) _ _ _

theorem within_buildTable {s : State} (h : s.log.within s.par.bufLen) (hn : 512 ≤ s.par.bufLen) :
    (buildTable s).within s.par.bufLen := by
  refine within_memWrite (within_writeSlots (within_buildHeader h hn) hn ?_) ?_
  · simp [slotsFor, length_buildSlots]
  · simp [hdrChecksum]; omega

/-! ### Where BUILD does not write -/

/-- Step 6 leaves every byte outside the slot's 16 as it was. -/
theorem read_writeSlot_outside (m : Mem) (i : Nat) (t : Slot) {a : Nat} (h : a < entryOfs i ∨ entryOfs i + 16 ≤ a) :
    (writeSlot m i t).read a = m.read a := by
  have l := length_slotName i
  unfold writeSlot
  simp only [FieldSpec.put, FieldSpec.inEntry, entStart, entSize, entFlags, entName]
  rw [Mem.read_splice, if_neg (by rw [l]; omega), Mem.read_splice, if_neg (by simp; omega), read_memWrite,
    if_neg (by omega), read_memWrite, if_neg (by omega)]

theorem read_writeSlots_outside (m : Mem) (i : Nat) (ts : List Slot) {a : Nat}
    (h : a < entryOfs i ∨ entryOfs (i + ts.length) ≤ a) : (writeSlots m i ts).read a = m.read a := by
  induction ts generalizing m i with
  | nil => rfl
  | cons t ts ih =>
    simp only [List.length_cons] at h
    rw [writeSlots, ih _ _ (by unfold entryOfs at *; simp only [Config.entryBase, Config.entryLen] at *; omega),
      read_writeSlot_outside _ _ _ (by unfold entryOfs at *; simp only [Config.entryBase, Config.entryLen] at *; omega)]

/-! ### Warnings -/

theorem length_contigWarnings (bc : Nat) (es : List EntryRec) : (contigWarnings bc es).length ≤ es.length := by
  induction es generalizing bc with
  | nil => simp [contigWarnings]
  | cons e es ih =>
    have := ih (bc + e.size.toNat)
    simp only [contigWarnings, List.length_append, List.length_cons]
    split <;> simp <;> omega

theorem length_analyzeWarnings (p : Params) (m : Mem) : (analyzeWarnings p m).length ≤ 19 := by
  have h0 := length_contigWarnings Config.firstBlock (entryRecords p m).toList
  have h1 : (checksumWarnings m).length ≤ 1 := by unfold checksumWarnings; split <;> simp
  have h2 : (totalWarnings p m).length ≤ 1 := by unfold totalWarnings; split <;> simp
  have h3 : (geometryWarnings m).length ≤ 1 := by unfold geometryWarnings; split <;> simp
  simp only [Vector.length_toList] at h0
  simp only [analyzeWarnings, List.length_append]
  omega

/-- No contiguity record is fatal, and each is of its kind. -/
theorem contigWarnings_kind (bc : Nat) (es : List EntryRec) :
    ∀ v ∈ contigWarnings bc es, v.kind = .wContig ∧ v.fatal = false := by
  induction es generalizing bc with
  | nil => intro v h; simp [contigWarnings] at h
  | cons e es ih =>
    intro v h
    rcases List.mem_append.mp h with h | h
    · split at h
      · rw [List.mem_singleton.mp h]; exact ⟨rfl, rfl⟩
      · simp at h
    · exact ih _ v h

/-! ### The checksum by columns -/

theorem checksumPairs_foldl (m : Mem) (l : List Nat) (a b : Byte) :
    l.foldl (checksumPair m) (a, b) =
      ((l.filter (· ≠ 2)).foldl (fun x i => x ^^^ m.read i) a, (l.filter (· ≠ 2)).foldl (fun x i => x ^^^ m.read (i + 1)) b) := by
  induction l generalizing a b with
  | nil => rfl
  | cons i l ih =>
    by_cases h : i = 2
    · subst h
      have : checksumPair m (a, b) 2 = (a, b) := if_pos rfl
      simp [List.foldl_cons, this, ih]
    · have : checksumPair m (a, b) i = (a ^^^ m.read i, b ^^^ m.read (i + 1)) := if_neg h
      simp [List.foldl_cons, this, ih, h]

/-- The checksum depends on the 510 bytes that take part, and on no other. -/
theorem checksum_congr {m m' : Mem} (h : ∀ a, a < 512 → a ≠ 2 → a ≠ 3 → m.read a = m'.read a) :
    checksum m = checksum m' := by
  have hp : checksumPairs m = checksumPairs m' := by
    unfold checksumPairs
    apply List.foldl_ext
    intro acc i hi
    obtain ⟨u, hu, rfl⟩ := List.mem_map.mp hi
    have hu' := List.mem_range.mp hu
    unfold checksumPair
    split
    · rfl
    · rename_i hne
      have hne' : 2 * u ≠ 2 := hne
      rw [h (2 * u) (by omega) hne' (by omega), h (2 * u + 1) (by omega) (by omega) (by omega)]
  unfold checksum
  rw [hp]

end Sys2Proof.Machine
end

