-- ==== Sys2Proof/Laws/PerInstr.lean ====
section
/-! SUPPORT. Laws/PerInstr.lean: a family of statements about the commands as syntax, one lemma per command. -/

namespace Sys2Proof

/-- The `op` byte of a command (30_encoding.md R84). -/
def opcodeByte : Instr → Byte
  | .getu8 _ _ => 0x01
  | .getu16 _ _ => 0x02
  | .getu24 _ _ => 0x03
  | .gettext _ _ _ => 0x04
  | .setu8 _ _ _ => 0x11
  | .setu16 _ _ _ => 0x12
  | .setu24 _ _ _ => 0x13
  | .deinterleave => 0x20
  | .interleave => 0x21
  | .checksum => 0x30
  | .build => 0x31
  | .analyze => 0x32

end Sys2Proof

/-- The word of a command holds its `op` byte and a zero `z` field, whatever its operands are (R81, R84). -/
def Sys2Proof.Laws.EncodeHoldsOpcode.Statement (i : Sys2Proof.Instr) : Prop :=
  Sys2Proof.Field.op (Sys2Proof.encode i) = Sys2Proof.opcodeByte i ∧ Sys2Proof.Field.z (Sys2Proof.encode i) = 0

namespace Sys2Proof

/-- Two vectors side by side as a natural. -/
theorem toNat_append_add {n m : Nat} (x : BitVec n) (y : BitVec m) : (x ++ y).toNat = 2 ^ m * x.toNat + y.toNat := by
  rw [BitVec.toNat_append, ← Nat.shiftLeft_add_eq_or_of_lt y.isLt, Nat.shiftLeft_eq, Nat.mul_comm]

/-- The word of format C as a natural (R81). -/
theorem toNat_formatC (op : Byte) (buf : BitVec 1) (ofs arg : Nat) :
    (formatC op buf ofs arg).toNat =
      op.toNat + 2 ^ 8 * buf.toNat + 2 ^ 16 * (ofs % 2 ^ 16) + 2 ^ 32 * (arg % 2 ^ 32) := by
  have h : (formatC op buf ofs arg).toNat = _ := toNat_append_add (BitVec.ofNat 32 arg) _
  rw [toNat_append_add, toNat_append_add, toNat_append_add, BitVec.toNat_ofNat, BitVec.toNat_ofNat] at h
  rw [h, show (0 : BitVec 7).toNat = 0 from rfl]
  omega

theorem field_op_formatC (op : Byte) (buf : BitVec 1) (ofs arg : Nat) : Field.op (formatC op buf ofs arg) = op := by
  apply BitVec.eq_of_toNat_eq
  have h := op.isLt
  rw [Field.op, BitVec.extractLsb'_toNat, toNat_formatC, Nat.shiftRight_zero]
  omega

theorem field_z_formatC (op : Byte) (buf : BitVec 1) (ofs arg : Nat) : Field.z (formatC op buf ofs arg) = 0 := by
  apply BitVec.eq_of_toNat_eq
  have h := op.isLt
  have h' := buf.isLt
  rw [Field.z, BitVec.extractLsb'_toNat, toNat_formatC, Nat.shiftRight_eq_div_pow, show (0 : BitVec 7).toNat = 0 from rfl]
  omega

namespace Laws

theorem EncodeHoldsOpcode.getu8 (buf : Buf) (ofs : Nat) : EncodeHoldsOpcode.Statement (.getu8 buf ofs) :=
  ⟨field_op_formatC .., field_z_formatC ..⟩

theorem EncodeHoldsOpcode.getu16 (buf : Buf) (ofs : Nat) : EncodeHoldsOpcode.Statement (.getu16 buf ofs) :=
  ⟨field_op_formatC .., field_z_formatC ..⟩

theorem EncodeHoldsOpcode.getu24 (buf : Buf) (ofs : Nat) : EncodeHoldsOpcode.Statement (.getu24 buf ofs) :=
  ⟨field_op_formatC .., field_z_formatC ..⟩

theorem EncodeHoldsOpcode.gettext (buf : Buf) (ofs len : Nat) : EncodeHoldsOpcode.Statement (.gettext buf ofs len) :=
  ⟨field_op_formatC .., field_z_formatC ..⟩

theorem EncodeHoldsOpcode.setu8 (buf : Buf) (ofs value : Nat) : EncodeHoldsOpcode.Statement (.setu8 buf ofs value) :=
  ⟨field_op_formatC .., field_z_formatC ..⟩

theorem EncodeHoldsOpcode.setu16 (buf : Buf) (ofs value : Nat) : EncodeHoldsOpcode.Statement (.setu16 buf ofs value) :=
  ⟨field_op_formatC .., field_z_formatC ..⟩

theorem EncodeHoldsOpcode.setu24 (buf : Buf) (ofs value : Nat) : EncodeHoldsOpcode.Statement (.setu24 buf ofs value) :=
  ⟨field_op_formatC .., field_z_formatC ..⟩

theorem EncodeHoldsOpcode.deinterleave : EncodeHoldsOpcode.Statement .deinterleave :=
  ⟨field_op_formatC .., field_z_formatC ..⟩

theorem EncodeHoldsOpcode.interleave : EncodeHoldsOpcode.Statement .interleave :=
  ⟨field_op_formatC .., field_z_formatC ..⟩

theorem EncodeHoldsOpcode.checksum : EncodeHoldsOpcode.Statement .checksum := ⟨field_op_formatC .., field_z_formatC ..⟩

theorem EncodeHoldsOpcode.build : EncodeHoldsOpcode.Statement .build := ⟨field_op_formatC .., field_z_formatC ..⟩

theorem EncodeHoldsOpcode.analyze : EncodeHoldsOpcode.Statement .analyze := ⟨field_op_formatC .., field_z_formatC ..⟩

end Laws

end Sys2Proof
end

