-- ==== Sys2Proof/Tests/Slice0.lean ====
section
/-! SUPPORT. Tests/Slice0.lean: words written out from 30_encoding.md, small steps from the spec's own examples (V<n> is a
vector of 95_test_vectors.md), and for each obligation with hypotheses a state that meets them. -/

namespace Sys2Proof.Machine

/-! ### Small states -/

/-- The parameters of the spec's vectors: RSVD zero, the placeholder `?` (95_test_vectors.md, Conventions). -/
def tPar (bufLen : Nat) : Params where
  bufLen := bufLen
  rsvd08 := 0
  rsvd0F := Vector.replicate 2 0
  rsvd15 := Vector.replicate 235 0
  textPlaceholder := 0x3F
  printLo := 0x20
  printHi := 0x7E
  blockBytes := 512
  mbBytes := 1048576
  kbBytes := 1024

/-- A state with these buffers. -/
def tState (bufLen : Nat) (phys log : Mem) : State := { State.reset with par := tPar bufLen, phys := phys, log :=
  log }

/-- A state with these builder inputs (the standard ones of V10 but for the total and CFG_NFULL). -/
def tBuild (total cyl heads sect nfull : Reg32) : State :=
  { tState 512 [] [] with
    cfgDtype := 1, cfgTotal := total, cfgCyl := cyl, cfgHeads := heads, cfgSect := sect, cfgIlv := 1, cfgNfull :=
  nfull }

/-- A state whose host has one action to perform. -/
def tHost (fault : BitVec 8) (a : HostAction) : State := { tState 512 [] [] with fault := fault, inbox := [a] }

/-- What a completed step shows of the next state; nothing where it stops. -/
def shown {α : Type} (o : Out) (f : State → α) : Option α :=
  match o with
  | .next s => some (f s)
  | .fault _ => none
  | .refused _ => none

/-- The reason a step is refused for, where it is. -/
def refusal (o : Out) : Option Refusal :=
  match o with
  | .next _ => none
  | .fault _ => none
  | .refused r => some r

/-! ### Well-formedness: one ill-formed term for each check -/

theorem test_wf_getu8_offset : wellFormed (.getu8 .log 0x10000) = false := by decide
theorem test_wf_getu16_offset : wellFormed (.getu16 .log 0x10000) = false := by decide
theorem test_wf_getu24_offset : wellFormed (.getu24 .log 0x10000) = false := by decide
theorem test_wf_gettext_offset : wellFormed (.gettext .log 0x10000 1) = false := by decide
theorem test_wf_gettext_length : wellFormed (.gettext .log 0 0x100000000) = false := by decide
theorem test_wf_setu8_offset : wellFormed (.setu8 .log 0x10000 1) = false := by decide
theorem test_wf_setu8_value : wellFormed (.setu8 .log 0 0x100000000) = false := by decide
theorem test_wf_setu16_offset : wellFormed (.setu16 .log 0x10000 1) = false := by decide
theorem test_wf_setu16_value : wellFormed (.setu16 .log 0 0x100000000) = false := by decide
theorem test_wf_setu24_offset : wellFormed (.setu24 .log 0x10000 1) = false := by decide
theorem test_wf_setu24_value : wellFormed (.setu24 .log 0 0x100000000) = false := by decide

/-! ### Decoding: words written out from R81 and R84 (the words of V1) -/

theorem test_decode_getu8 :
    decode 0x0000000001FF0101 = .ok (.getu8 .phys 0x1FF) ∧
      encode (.getu8 .phys 0x1FF) = 0x0000000001FF0101 := by decide
theorem test_decode_getu16 :
    decode 0x0000000000020002 = .ok (.getu16 .log 2) ∧
      encode (.getu16 .log 2) = 0x0000000000020002 := by decide
theorem test_decode_getu24 :
    decode 0x0000000001300003 = .ok (.getu24 .log 0x130) ∧
      encode (.getu24 .log 0x130) = 0x0000000001300003 := by decide
theorem test_decode_gettext :
    decode 0x0000000A01060004 = .ok (.gettext .log 0x106 10) ∧
      encode (.gettext .log 0x106 10) = 0x0000000A01060004 := by decide
theorem test_decode_setu8 :
    decode 0x000001FF00040011 = .ok (.setu8 .log 4 0x1FF) ∧
      encode (.setu8 .log 4 0x1FF) = 0x000001FF00040011 := by decide
theorem test_decode_setu16 :
    decode 0x0000D67700020012 = .ok (.setu16 .log 2 0xD677) ∧
      encode (.setu16 .log 2 0xD677) = 0x0000D67700020012 := by decide
theorem test_decode_setu24 :
    decode 0x0002FFFF01300013 = .ok (.setu24 .log 0x130 0x02FFFF) ∧
      encode (.setu24 .log 0x130 0x02FFFF) = 0x0002FFFF01300013 := by decide
theorem test_decode_deinterleave : decode 0x20 = .ok .deinterleave ∧ encode .deinterleave = 0x20 := by decide
theorem test_decode_interleave : decode 0x21 = .ok .interleave ∧ encode .interleave = 0x21 := by decide
theorem test_decode_checksum : decode 0x30 = .ok .checksum ∧ encode .checksum = 0x30 := by decide
theorem test_decode_build : decode 0x31 = .ok .build ∧ encode .build = 0x31 := by decide
theorem test_decode_analyze : decode 0x32 = .ok .analyze ∧ encode .analyze = 0x32 := by decide

/-- The bits of GETU16 PHYS, 4 one field at a time (R81): arg, ofs, z, buf, op. -/
theorem test_decode_fields :
    decode (0#32 ++ (4#16 ++ (0#7 ++ (1#1 ++ 2#8)))) = .ok (.getu16 .phys 4) := by decide

/-- The illegal words of V1. -/
theorem test_decode_illegal :
    ([0x00, 0x05, 0x14, 0x33, 0x201, 0x100000001, 0x120, 0x10032, 0x100000031, 0x103000001] : List Command).all
      (fun w => (decode w).toOption == none) = true := by decide

theorem test_decode_seven_bytes : decodeBytes [0x20, 0, 0, 0, 0, 0, 0] = .error (.notEightBytes 7) := by decide

/-- The bytes of V1 for SETU16 LOG, 0x02, 0xD677. -/
theorem test_decode_bytes : decodeBytes [0x12, 0x00, 0x02, 0x00, 0x77, 0xD6, 0, 0] = .ok (.setu16 .log 2 0xD677) := by
  decide

theorem test_decodeTableWord : decodeTableWord 64 0x0000000A01060004 = some (.gettext .log 0x106 10) := by decide

/-- R94: the listing's line of a command. -/
theorem test_assemble : assemble "SETU24 LOG, 0x130, 0x02FFFF ; V33".toList = some (.setu24 .log 0x130 0x02FFFF) := by
  decide +kernel

/-- R95: a host directive. -/
theorem test_directive : lineActions [] ".cfg TOTAL = 327680".toList = some [.writeReg 0x01 327680] :=
  by decide +kernel

/-- P6's line for an illegal word, and a number that no word holds (log entry 18). -/
theorem test_directive_word :
    lineActions [] ".word 0x0000000000000120 ; P6".toList = some [.issue 0x120] ∧
      lineActions [] ".word 0x10000000000000000".toList = none := by decide +kernel

/-- P1's form of a read, and a bare `.read` (log entry 18). -/
theorem test_directive_read :
    lineActions [] ".read REPORT, VIOL".toList = some [.readResult, .readResult] ∧ lineActions [] ".read".toList = some [] :=
  by
  decide +kernel

/-! ### The commands, from the spec's examples -/

/-- R101: LOG[0x04] = 0x01. -/
theorem test_getu8 : shown (exec (.getu8 .log 4) (tState 512 [] [(4, 0x01)])) (·.res) = some 0x00000001 := by decide

/-- V11: the sum is taken with BUF_LEN = 516, so 0x200 is in range. -/
theorem test_getu8_padding :
    shown (exec (.getu8 .log 0x200) (tState 516 [] [(0x200, 9)])) (fun s => (s.res, s.fault)) = some (9, 0) :=
  by decide

/-- R102: 0x80, 0x02 at 0x09 give 640. -/
theorem test_getu16 : shown (exec (.getu16 .log 9) (tState 512 [] [(9, 0x80), (10, 0x02)])) (·.res) = some 640 :=
  by decide

/-- V11: the last byte alone is in range, and the command faults without reading it. -/
theorem test_getu16_end :
    shown (exec (.getu16 .log 0x1FF) (tState 512 [] [(0x1FF, 0xA0)])) (fun s => (s.res, s.fault, s.faultInfo)) =
      some (0, 1, 0x1FF) := by decide

/-- V7: 0xFE, 0xFF, 0x02 at 0x130 give 196606. -/
theorem test_getu24 :
    shown (exec (.getu24 .log 0x130) (tState 512 [] [(0x130, 0xFE), (0x131, 0xFF), (0x132, 0x02)])) (·.res) =
      some 0x0002FFFE := by decide

/-- V7: PHYS is read in its own order. -/
theorem test_getu24_phys :
    shown (exec (.getu24 .phys 9) (tState 512 [(10, 0xFF), (11, 0x40)] [(9, 1)])) (·.res) = some 0x0040FF00 :=
  by decide

/-- V9 (b). -/
theorem test_gettext :
    shown (exec (.gettext .log 0 10)
        (tState 512 [] [(0, 0xC1), (1, 0x45), (3, 0x7F), (4, 0xFF), (5, 0x80), (6, 0x9F), (7, 0xA0), (8, 0x20), (9, 0xFE)]))
        (fun s => (s.txt, s.txtLen)) =
      some ([0x41, 0x45, 0x3F, 0x3F, 0x3F, 0x3F, 0x3F, 0x20, 0x20, 0x7E], 10) := by decide

/-- V9 (d): the empty text at the end of the buffer is legal. -/
theorem test_gettext_empty :
    shown (exec (.gettext .log 0x200 0) { tState 512 [] [] with txt := [0x41], txtLen := 1 })
      (fun s => (s.txt, s.txtLen, s.fault)) = some ([], 0, 0) := by decide

/-- V8: from 11 22 33 44, SETU8 LOG, 0x10, 0x1FF. -/
theorem test_setu8 :
    shown (exec (.setu8 .log 0x10 0x1FF) (tState 512 [] [(0x10, 0x11), (0x11, 0x22), (0x12, 0x33), (0x13, 0x44)]))
      (·.log) = some [(0x10, 0xFF), (0x11, 0x22), (0x12, 0x33), (0x13, 0x44)] := by decide

/-- V8: 0x100 stores zero, which the canonical form does not list. -/
theorem test_setu8_zero :
    shown (exec (.setu8 .log 0x10 0x100) (tState 512 [] [(0x10, 0x11), (0x11, 0x22)])) (·.log) = some [(0x11, 0x22)] :=
  by
  decide

/-- V8: SETU16 LOG, 0x11, 0xBEEF, an odd offset. -/
theorem test_setu16 :
    shown (exec (.setu16 .log 0x11 0xBEEF) (tState 512 [] [(0x10, 0x11), (0x11, 0x22), (0x12, 0x33), (0x13, 0x44)]))
      (·.log) = some [(0x10, 0x11), (0x11, 0xEF), (0x12, 0xBE), (0x13, 0x44)] := by decide

/-- V11: neither byte is written. -/
theorem test_setu16_end :
    shown (exec (.setu16 .log 0x1FF 0x1234) (tState 512 [] [(0x1FF, 0xA0)])) (fun s => (s.log, s.fault)) =
      some ([(0x1FF, 0xA0)], 1) := by decide

/-- V8: SETU24 LOG, 0x11, 0x123456. -/
theorem test_setu24 :
    shown (exec (.setu24 .log 0x11 0x123456) (tState 512 [] [(0x10, 0x11), (0x11, 0x22), (0x12, 0x33), (0x13, 0x44)]))
      (·.log) = some [(0x10, 0x11), (0x11, 0x56), (0x12, 0x34), (0x13, 0x12)] := by decide

/-- The same command on PHYS leaves LOG alone (R81). -/
theorem test_setu24_phys :
    shown (exec (.setu24 .phys 0 0x01050000) (tState 512 [(0, 7)] [(0, 7)])) (fun s => (s.phys, s.log)) =
      some ([(2, 5)], [(0, 7)]) := by decide

/-- R124: unit 1 (physical 2, 3) goes to logical 0x100; V5: unit 0 stays. -/
theorem test_deinterleave :
    shown (exec .deinterleave (tState 512 [(0, 7), (2, 1), (5, 3)] [(9, 9)])) (·.log) =
      some [(0, 7), (3, 3), (0x100, 1)] := by decide +kernel

/-- V6: both paddings dirty, the source's is reported. -/
theorem test_deinterleave_padding :
    shown (exec .deinterleave (tState 516 [(514, 7)] [(512, 9)])) (fun s => (s.fault, s.faultInfo, s.log)) =
      some (2, 0x202, [(512, 9)]) := by decide +kernel

/-- R125: logical 0x102 goes to physical 6. -/
theorem test_interleave :
    shown (exec .interleave (tState 512 [(9, 9)] [(3, 5), (0x102, 0xFF), (0x103, 0xFE)])) (·.phys) =
      some [(5, 5), (6, 0xFF), (7, 0xFE)] := by decide +kernel

/-- V6: the destination's padding is reported with bit 16 set. -/
theorem test_interleave_padding :
    shown (exec .interleave (tState 516 [(512, 9)] [])) (fun s => (s.fault, s.faultInfo)) = some (2, 0x10200) := by
  decide +kernel

/-- V12: a block with only the checksum field set gives 0; one byte at an even and one at an odd offset. -/
theorem test_checksum :
    shown (exec .checksum (tState 512 [] [(2, 0x12), (3, 0x34), (4, 0x0F), (6, 0xF1), (0x1FF, 0x55), (0x200, 0x77)]))
      (·.res) = some 0x55FE := by decide +kernel

/-- V10: the standard block: checksum, total, entry 3, the last slot's name, no violation. -/
theorem test_build :
    shown (exec .build (tBuild 327680 640 16 32 5))
      (fun s => (s.log.bytesAt 0 16, s.log.bytesAt 0x130 10, s.log.bytesAt 0x1F6 5, s.viol)) =
      some ([0xAE, 0xAE, 0x76, 0xD6, 0x01, 0x00, 0x00, 0x05, 0x00, 0x80, 0x02, 0x10, 0x20, 0x01, 0x00, 0x00],
        [0xFE, 0xFF, 0x02, 0xFF, 0xFF, 0x40, 0xC1, 0xC5, 0xB4, 0xA0], [0xC1, 0xC5, 0xB1, 0xB6, 0xA0], []) := by
  decide +kernel

/-- R148: the count zero. -/
theorem test_build_zero : refusal (exec .build (tBuild 327680 640 16 32 0)) = some .builderCountZero :=
  by decide +kernel

/-- R172, V32: a block without the magic. -/
theorem test_analyze_magic :
    shown (exec .analyze (tState 512 [] [(0, 0xAE)])) (fun s => (s.fault, s.faultInfo, s.viol)) =
      some (6, 0xAE, [⟨.fBadMagic, true, none, 0xAEAE, 0xAE⟩]) := by decide +kernel

/-- R185, R186, R190 to R192, worked by hand: two entries of 3 and 2 blocks, the second displaced to block 5 and all
empty entries at block 0; total 1000, heads 3, sectors 3 give 111 cylinders against a declared 110; the checksum field
holds 0. -/
theorem test_analyze :
    shown (exec .analyze (tState 512 []
        [(0, 0xAE), (1, 0xAE), (5, 0xE8), (6, 0x03), (9, 110), (11, 3), (12, 3), (0x100, 1), (0x103, 3), (0x110, 5),
          (0x113, 2)]))
      (fun s => s.viol.take 2 ++ s.viol.drop 15) =
      some [⟨.wContig, false, some 1, 4, 5⟩, ⟨.wContig, false, some 2, 6, 0⟩, ⟨.wChecksum, false, none, 0x2AAA, 0⟩,
        ⟨.wTotal, false, none, 6, 1000⟩, ⟨.wGeometry, false, none, 111, 110⟩] := by decide +kernel

/-! ### Steps -/

/-- The first step after reset runs the word placed there. -/
theorem test_step_first : step (State.reset.withFetchWord 64 0x30) = exec .checksum State.reset := rfl

/-- R95, R234: a register write by number. -/
theorem test_step_writeReg : shown (step (tHost 0 (.writeReg 0x06 5))) (·.cfgNfull) = some 5 := by decide

/-- R16: a write of RES has no effect. -/
theorem test_step_writeReg_readOnly : shown (step (tHost 0 (.writeReg 0x08 5))) (·.res) = some 0 := by decide

/-- R224: a halted engine does not issue. -/
theorem test_step_halted : shown (step (tHost 1 (.issue 0))) (fun s => (s.fault, s.inbox)) = some (1, []) := by decide

/-- R86: an illegal word, `op` 0. -/
theorem test_step_illegal : shown (step (tHost 0 (.issue 0x100000000))) (fun s => (s.fault, s.faultInfo)) = some (8, 0) :=
  by
  decide

/-- The examples of R196 and R198. -/
theorem test_rounding :
    ([0, 1, 3, 4, 5, 7, 65535].map fun n => roundHalfEven (n * 512) 1024) = [0, 0, 2, 2, 2, 4, 32768] ∧
      roundHalfUp (512 * 512 * 10) 1048576 = 3 := by decide

/-- R183: the label of each kind, and one of no known kind, which carries the whole byte. -/
theorem test_labels :
    (([0x00, 0x41, 0x82, 0xC3, 0x04, 0x05] : List Byte).map flagsLabel) =
      [.clear, .proDOS, .dos33, .pascal, .cpm, .unknown 0x05] := by decide

/-! ### A state that meets the hypotheses of each obligation -/

/-- A block that ANALYZE completes on: the magic, one head, one sector. -/
def tBlock : Mem := [(0, 0xAE), (1, 0xAE), (11, 1), (12, 1)]

theorem clean_nil (s : State) : cleanPadding s [] := fun _ _ => rfl

theorem clean_of_512 (phys log m : Mem) : cleanPadding (tState 512 phys log) m := fun k h => by
  have h1 := h.1
  have h2 : k < 512 := h.2
  omega

theorem analyzable_tBlock (phys : Mem) : analyzable (tState 512 phys tBlock) :=
  ⟨by show memRead tBlock 0 2 = 0xAEAE; decide, clean_of_512 _ _ _, by show tBlock.read 11 ≠ 0; decide,
    by show tBlock.read 12 ≠ 0; decide⟩

theorem first_dirty {s : State} {m : Mem} {k : Nat} (h : m.firstNonZero 512 s.par.bufLen = some k) : firstDirty s m k :=
  (firstDirty_iff s m k).mpr h

/-- A sound state with one command to run. -/
theorem inv_tHost (a : HostAction) : (tHost 0 a).Inv where
  params := by show (tPar 512).wf; decide
  physWf := Mem.wf_nil
  logWf := Mem.wf_nil
  physWithin := Mem.within_nil _
  logWithin := Mem.within_nil _
  violCount := rfl
  txtLen := rfl
  cause := .inl rfl
  infoZero := fun _ => rfl
  fatalKind := fun v h => absurd h List.not_mem_nil
  fatalHalts := fun ⟨v, h, _⟩ => absurd h List.not_mem_nil
  validMagic := fun h => absurd h Bool.false_ne_true

theorem witness_DecodeEncodeAllCommands :
    WellFormed (.setu24 .phys 0xFFFF 0xFFFFFFFF) ∧ WellFormed (.getu8 .log 0) := by decide

theorem witness_DecodedWordIsTheEncoding :
    decode 0xFFFFFFFFFFFF0104 = .ok (.gettext .phys 0xFFFF 0xFFFFFFFF) := by decide

theorem witness_MaskTableDecidesTheCommand :
    ∃ r ∈ opcodeRows, r.accepts 0xFFFFFFFFFFFF0104 = true := by decide

theorem witness_IllegalWordRaisesIllegalCommand :
    (tHost 0 (.issue 0x201)).running ∧ (tHost 0 (.issue 0x201)).inbox = [.issue 0x201] ∧
      ∀ r ∈ opcodeRows, r.accepts 0x201 = false := by decide

theorem witness_StepRunsTheDecodedCommand :
    (tHost 0 (.issue 0x32)).running ∧ (tHost 0 (.issue 0x32)).inbox = .issue 0x32 :: [] ∧ decode 0x32 = .ok .analyze ∧
      State.reset.running ∧ decodeTableWord 64 0x32 = some .analyze := by decide

theorem witness_EngineWaitsForTheHost :
    (tState 512 [] tBlock).inbox = [] := rfl

theorem witness_HostResetFromEveryState :
    (tHost 6 .reset).inbox = .reset :: [] := rfl

theorem witness_EveryStepKeepsTheInvariant :
    ∃ t, (tHost 0 (.issue 0x30)).Inv ∧ step (tHost 0 (.issue 0x30)) = .next t ∧ t.inbox = [] :=
  ⟨_, inv_tHost _, rfl, rfl⟩

theorem witness_StepKeepsTheParameters :
    ∃ t, step (tHost 0 (.issue 0x30)) = .next t := ⟨_, rfl⟩

theorem witness_HaltedEngineIgnoresTheHost :
    (tHost 1 (.readReg 9)).fault ≠ 0 ∧ (tHost 1 (.readReg 9)).inbox = .readReg 9 :: [] ∧
      (tHost 8 .readResult).fault ≠ 0 ∧ (tHost 8 .readResult).inbox = .readResult :: [] ∧
      (tHost 8 .store).fault ≠ 0 ∧ (tHost 8 .store).inbox = .store :: [] ∧ HostAction.store ≠ .readResult ∧
      HostAction.store ≠ .reset := by decide

theorem witness_HaltedUntilReset :
    (tHost 5 (.issue 0x30)).fault ≠ 0 ∧ HostAction.reset ∉ (tHost 5 (.issue 0x30)).inbox := by decide

/-- Every number of the table, the hole at 0x07 and the first number beyond, of a running and of a halted engine. -/
theorem witness_RegisterReadsByNumber :
    ∀ n, n ≤ 0x0D →
      (tHost 0 (.readReg n)).inbox = .readReg n :: [] ∧ (tHost 2 (.readReg n)).inbox = .readReg n :: [] :=
  fun _ _ => ⟨rfl, rfl⟩

/-- Every register that can be written, and 0x07, the first number that cannot. -/
theorem witness_RegisterWritesByNumber :
    ∀ n, n ≤ 0x07 →
      (tHost 0 (.writeReg n 5)).running ∧ (tHost 0 (.writeReg n 5)).inbox = .writeReg n 5 :: [] :=
  fun _ _ => ⟨rfl, rfl⟩

theorem witness_HostReadsTheResults :
    (tHost 0 .readResult).inbox = .readResult :: [] ∧ (tHost 6 .readResult).inbox = .readResult :: [] := by decide

theorem witness_HostLoadFillsPhys :
    (tHost 0 (.load (List.replicate 512 1))).running ∧
      (tHost 0 (.load (List.replicate 512 1))).inbox = .load (List.replicate 512 1) :: [] ∧
      (List.replicate 512 (1 : Byte)).length = (tHost 0 (.load (List.replicate 512 1))).par.bufLen :=
  ⟨rfl, rfl, by rw [List.length_replicate]; rfl⟩

theorem witness_LoadOfWrongLengthStops :
    (tHost 0 (.load [1])).running ∧ (tHost 0 (.load [1])).inbox = .load [1] :: [] ∧
      ([1] : List Byte).length ≠ (tHost 0 (.load [1])).par.bufLen := by decide

theorem witness_HostStoreReturnsPhys :
    (tHost 0 .store).running ∧ (tHost 0 .store).inbox = .store :: [] := by decide

theorem witness_FailedTransferHalts :
    (tHost 0 .loadFails).running ∧ (tHost 0 .loadFails).inbox = .loadFails :: [] ∧
      (tHost 0 .storeFails).running ∧ (tHost 0 .storeFails).inbox = .storeFails :: [] := by decide

/-- The last offset in range of each width. -/
theorem witness_GetReadsLittleEndian :
    (tState 512 [] []).running ∧ 511 + 1 ≤ (tState 512 [] []).par.bufLen ∧ 510 + 2 ≤ (tState 512 [] []).par.bufLen ∧
      509 + 3 ≤ (tState 512 [] []).par.bufLen := by decide

/-- The empty text at the end, and the last ten bytes. -/
theorem witness_GetTextSanitises :
    (tState 512 [] []).running ∧ (tState 512 [] []).par.wf ∧ 512 + 0 ≤ (tState 512 [] []).par.bufLen ∧
      502 + 10 ≤ (tState 512 [] []).par.bufLen := by decide

/-- The last offset in range of each width. -/
theorem witness_SetStoresTruncatedBytes :
    (tState 512 [] []).running ∧ 511 + 1 ≤ (tState 512 [] []).par.bufLen ∧ 510 + 2 ≤ (tState 512 [] []).par.bufLen ∧
      509 + 3 ≤ (tState 512 [] []).par.bufLen := by decide

/-- The first offset out of range of each width. -/
theorem witness_OutOfRangeChangesOnlyTheFault :
    (tState 512 [] []).running ∧ (tState 512 [] []).par.bufLen < 512 + 1 ∧ (tState 512 [] []).par.bufLen < 511 + 2 ∧
      (tState 512 [] []).par.bufLen < 510 + 3 ∧ (tState 512 [] []).par.bufLen < 503 + 10 := by decide

theorem witness_SetThenGetTruncates :
    (tState 512 [] []).running ∧ 511 + 1 ≤ (tState 512 [] []).par.bufLen ∧ 510 + 2 ≤ (tState 512 [] []).par.bufLen ∧
      509 + 3 ≤ (tState 512 [] []).par.bufLen := by decide

theorem witness_TextIsBytewise :
    (∀ k, k < 2 → printable (tPar 512) ((Mem.read [(6, 0xC1), (7, 0xA0)] (6 + k)).setWidth 7) = true) ∧
      ∀ k, k < 2 → (Mem.read [(6, 0xC1), (7, 0xA0)] (6 + k)).getLsbD 7 = true := by decide

theorem clean_tState : cleanPadding (tState 516 [(9, 9)] []) [(9, 9)] := (cleanPadding_iff _ _).mpr (by decide)

theorem witness_DeinterleaveMovesTheUnits :
    (tState 516 [(9, 9)] []).running ∧ cleanPadding (tState 516 [(9, 9)] []) (tState 516 [(9, 9)] []).phys ∧
      cleanPadding (tState 516 [(9, 9)] []) (tState 516 [(9, 9)] []).log := ⟨rfl, clean_tState, clean_nil _⟩

theorem witness_InterleaveMovesTheUnits :
    (tState 516 [(9, 9)] []).running ∧ cleanPadding (tState 516 [(9, 9)] []) (tState 516 [(9, 9)] []).phys ∧
      cleanPadding (tState 516 [(9, 9)] []) (tState 516 [(9, 9)] []).log := ⟨rfl, clean_tState, clean_nil _⟩

/-- The first and the last padding byte; the first state serves DEINTERLEAVE's source and INTERLEAVE's destination, the
second the other two clauses. -/
theorem witness_DirtyPaddingFaults :
    (tState 516 [(512, 7)] []).running ∧ (tState 516 [(512, 7)] []).par.wf ∧
      firstDirty (tState 516 [(512, 7)] []) (tState 516 [(512, 7)] []).phys 512 ∧
      cleanPadding (tState 516 [(512, 7)] []) (tState 516 [(512, 7)] []).log ∧
      (tState 516 [] [(515, 9)]).running ∧ (tState 516 [] [(515, 9)]).par.wf ∧
      cleanPadding (tState 516 [] [(515, 9)]) (tState 516 [] [(515, 9)]).phys ∧
      firstDirty (tState 516 [] [(515, 9)]) (tState 516 [] [(515, 9)]).log 515 :=
  ⟨rfl, by decide, first_dirty (by decide), clean_nil _, rfl, by decide, clean_nil _, first_dirty (by decide)⟩

theorem witness_TransformsRoundTrip :
    (tState 516 [(9, 9)] []).running ∧ cleanPadding (tState 516 [(9, 9)] []) (tState 516 [(9, 9)] []).phys ∧
      cleanPadding (tState 516 [(9, 9)] []) (tState 516 [(9, 9)] []).log := ⟨rfl, clean_tState, clean_nil _⟩

theorem witness_ChecksumIsTwoColumnParities :
    (tState 512 [] tBlock).running := rfl

theorem witness_ChecksumIgnoresItsOwnField :
    (tState 512 [] tBlock).running ∧ (tState 512 [] tBlock).par.wf := by decide

theorem witness_ChecksumIsLinear :
    ∃ x y z : Mem, ∀ a, a < 512 → z.read a = x.read a ^^^ y.read a :=
  ⟨[(4, 1)], [], [(4, 1)], fun _ _ => (BitVec.xor_zero).symm⟩

theorem witness_BuildWritesTheHeader :
    (tBuild 65536 128 16 32 1).running ∧ (tBuild 65536 128 16 32 1).cfgNfull ≠ 0 := by decide

/-- The smallest count, and the first that leaves blocks over. -/
theorem witness_BuildFillsTheEntries :
    (tBuild 65536 128 16 32 1).running ∧ (tBuild 65536 128 16 32 1).cfgNfull ≠ 0 ∧
      (tBuild 1048576 128 16 32 16).running ∧ (tBuild 1048576 128 16 32 16).cfgNfull ≠ 0 := by decide

theorem witness_BuildWarnsOnTheTotal :
    (tBuild 65536 128 16 32 1).running ∧ (tBuild 65536 128 16 32 1).cfgNfull ≠ 0 ∧
      (tBuild 65536 128 16 32 1).cfgTotal.toNat = 65536 * (tBuild 65536 128 16 32 1).cfgNfull.toNat ∧
      (tBuild 65537 128 16 32 1).running ∧ (tBuild 65537 128 16 32 1).cfgNfull ≠ 0 ∧
      (tBuild 65537 128 16 32 1).cfgTotal.toNat ≠ 65536 * (tBuild 65537 128 16 32 1).cfgNfull.toNat := by decide

theorem witness_BuildRefusesCountZero :
    (tBuild 0 128 16 32 0).running ∧ (tBuild 0 128 16 32 0).cfgNfull = 0 := by decide

theorem witness_BuildReadsNoBuffer :
    ∃ t t', (tBuild 65536 128 16 32 1).running ∧
      sameConfig (tBuild 65536 128 16 32 1) { tBuild 65536 128 16 32 1 with log := [(4, 4)] } ∧
      exec .build (tBuild 65536 128 16 32 1) = .next t ∧
      exec .build { tBuild 65536 128 16 32 1 with log := [(4, 4)] } = .next t' :=
  ⟨_, _, rfl, ⟨rfl, rfl, rfl, rfl, rfl, rfl, rfl, rfl⟩, execBuild_of_count (by decide), execBuild_of_count (by decide)⟩

theorem witness_BuiltTableIsConsistent :
    (tBuild 65536 128 16 32 1).running ∧ (tBuild 65536 128 16 32 1).cfgNfull ≠ 0 ∧
      (tBuild 983040 128 16 32 15).running ∧ (tBuild 983040 128 16 32 15).cfgNfull ≠ 0 ∧
      (tBuild 983040 128 16 32 15).cfgNfull.toNat ≤ 15 ∧
      (tBuild 983040 128 16 32 15).cfgTotal.toNat = 65536 * (tBuild 983040 128 16 32 15).cfgNfull.toNat := by decide

/-- Every count at the end of its range. -/
theorem witness_BuiltTableAnalyzesClean :
    (tBuild 983040 65535 255 255 15).running ∧ cleanPadding (tBuild 983040 65535 255 255 15) [] ∧
      (tBuild 983040 65535 255 255 15).log = [] ∧ (tBuild 983040 65535 255 255 15).cfgNfull ≠ 0 ∧
      (tBuild 983040 65535 255 255 15).cfgNfull.toNat ≤ 15 ∧
      (tBuild 983040 65535 255 255 15).cfgTotal.toNat = 65536 * (tBuild 983040 65535 255 255 15).cfgNfull.toNat ∧
      0 < (tBuild 983040 65535 255 255 15).cfgHeads.toNat ∧ (tBuild 983040 65535 255 255 15).cfgHeads.toNat < 256 ∧
      0 < (tBuild 983040 65535 255 255 15).cfgSect.toNat ∧ (tBuild 983040 65535 255 255 15).cfgSect.toNat < 256 ∧
      (tBuild 983040 65535 255 255 15).cfgCyl.toNat < 65536 ∧
      (tBuild 983040 65535 255 255 15).cfgTotal.toNat / (tBuild 983040 65535 255 255 15).cfgHeads.toNat /
        (tBuild 983040 65535 255 255 15).cfgSect.toNat ≤ (tBuild 983040 65535 255 255 15).cfgCyl.toNat :=
  ⟨rfl, clean_nil _, rfl, by decide⟩

theorem witness_AnalyzeFaultsOnBadMagic :
    (tState 512 [] [(0, 0xAE)]).running ∧ memRead (tState 512 [] [(0, 0xAE)]).log 0x00 2 ≠ 0xAEAE := by decide

/-- The last byte of the trailing space, as in V37. -/
theorem witness_AnalyzeFaultsOnTrailingBytes :
    (tState 514 [] [(0, 0xAE), (1, 0xAE), (513, 1)]).running ∧
      memRead (tState 514 [] [(0, 0xAE), (1, 0xAE), (513, 1)]).log 0x00 2 = 0xAEAE ∧
      firstDirty (tState 514 [] [(0, 0xAE), (1, 0xAE), (513, 1)]) [(0, 0xAE), (1, 0xAE), (513, 1)] 513 :=
  ⟨rfl, by decide, first_dirty (by decide)⟩

theorem witness_AnalyzeRefusesZeroDivisor :
    (tState 512 [] [(0, 0xAE), (1, 0xAE), (11, 1)]).running ∧
      memRead (tState 512 [] [(0, 0xAE), (1, 0xAE), (11, 1)]).log 0x00 2 = 0xAEAE ∧
      cleanPadding (tState 512 [] [(0, 0xAE), (1, 0xAE), (11, 1)]) [(0, 0xAE), (1, 0xAE), (11, 1)] ∧
      (tState 512 [] [(0, 0xAE), (1, 0xAE), (11, 1)]).log.read 0x0C = 0 :=
  ⟨rfl, by decide, clean_of_512 _ _ _, by decide⟩

theorem witness_AnalyzeReportsTheHeader :
    (tState 512 [] tBlock).running ∧ analyzable (tState 512 [] tBlock) := ⟨rfl, analyzable_tBlock _⟩

theorem witness_AnalyzeDecodesTheEntries :
    (tState 512 [] tBlock).running ∧ (tState 512 [] tBlock).par.wf ∧ analyzable (tState 512 [] tBlock) :=
  ⟨rfl, by decide, analyzable_tBlock _⟩

theorem witness_AnalyzeWarnsOnContiguity :
    (tState 512 [] tBlock).running ∧ analyzable (tState 512 [] tBlock) ∧
      memRead (tState 512 [] tBlock).log (0x100 + 16 * 0) 3 ≠ cursorBefore (tState 512 [] tBlock).log 0 :=
  ⟨rfl, analyzable_tBlock _, by decide⟩

theorem witness_AnalyzeCrossChecks :
    (tState 512 [] tBlock).running ∧ analyzable (tState 512 [] tBlock) := ⟨rfl, analyzable_tBlock _⟩

theorem witness_AnalyzeOrdersItsWarnings :
    (tState 512 [] tBlock).running ∧ analyzable (tState 512 [] tBlock) := ⟨rfl, analyzable_tBlock _⟩

theorem witness_AnalyzeRoundsTheDriveSizes :
    (tState 512 [] tBlock).running ∧ (tState 512 [] tBlock).par.wf ∧ analyzable (tState 512 [] tBlock) :=
  ⟨rfl, by decide, analyzable_tBlock _⟩

theorem analyze_completes {s : State} (h : analyzable s) : ∃ t, exec .analyze s = .next t := by
  have e : exec .analyze s = execAnalyze s := rfl
  rw [e, execAnalyze_of_analyzable h]
  exact ⟨_, rfl⟩

theorem witness_AnalyzeIsAFunctionOfLog :
    (tState 512 [] tBlock).running ∧ (tState 512 [(4, 4)] tBlock).running ∧
      (tState 512 [] tBlock).par = (tState 512 [(4, 4)] tBlock).par ∧
      (∀ a, (tState 512 [] tBlock).log.read a = (tState 512 [(4, 4)] tBlock).log.read a) ∧
      (∃ t, exec .analyze (tState 512 [] tBlock) = .next t) ∧ (∃ t, exec .analyze (tState 512 [(4, 4)] tBlock) = .next t) ∧
      analyzable (tState 512 [] tBlock) :=
  ⟨rfl, rfl, rfl, fun _ => rfl, analyze_completes (analyzable_tBlock _), analyze_completes (analyzable_tBlock _),
      analyzable_tBlock _⟩

theorem deinterleave_completes (s : State) : ∃ t, exec .deinterleave s = .next t := by
  rcases execDeinterleave_cases s with ⟨info, _, h⟩ | ⟨_, h⟩
  · exact ⟨s.faultEntry .paddingNonZero info, h⟩
  · exact ⟨s.withLog (s.log.splice 0 (deinterleaved s.phys)), h⟩

theorem interleave_completes (s : State) : ∃ t, exec .interleave s = .next t := by
  rcases execInterleave_cases s with ⟨info, _, h⟩ | ⟨_, h⟩
  · exact ⟨s.faultEntry .paddingNonZero info, h⟩
  · exact ⟨s.withPhys (s.phys.splice 0 (interleaved s.log)), h⟩

/-- The last offset of each width of a SET, and each command with a clause of its own. -/
theorem witness_EachCommandWritesItsOwn :
    (tState 512 [] []).running ∧ (∃ t, exec (.getu8 .log 4) (tState 512 [] []) = .next t) ∧
      (∃ t, exec (.setu8 .log 511 1) (tState 512 [] []) = .next t) ∧
      (∃ t, exec (.setu16 .phys 510 1) (tState 512 [] []) = .next t) ∧
      (∃ t, exec (.setu24 .log 509 1) (tState 512 [] []) = .next t) ∧
      (∃ t, exec .deinterleave (tState 512 [] []) = .next t) ∧ (∃ t, exec .interleave (tState 512 [] []) = .next t) ∧
      (tBuild 65536 128 16 32 1).running ∧ (∃ t, exec .build (tBuild 65536 128 16 32 1) = .next t) ∧
      (tState 512 [] tBlock).running ∧ ∃ t, exec .analyze (tState 512 [] tBlock) = .next t :=
  ⟨rfl, ⟨_, rfl⟩, ⟨_, rfl⟩, ⟨_, rfl⟩, ⟨_, rfl⟩, deinterleave_completes _, interleave_completes _, rfl,
    ⟨_, execBuild_of_count (by decide)⟩, rfl, analyze_completes (analyzable_tBlock _)⟩

theorem witness_FaultsArePrecise :
    ∃ t, (tState 512 [] []).running ∧ exec (.getu8 .log 512) (tState 512 [] []) = .next t ∧ t.fault ≠ 0 :=
  ⟨_, rfl, rfl, by decide⟩

theorem witness_RefusalsAreTheTwoOfTheSpec :
    (tBuild 0 1 1 1 0).running ∧ exec .build (tBuild 0 1 1 1 0) = .refused .builderCountZero :=
  ⟨rfl, execBuild_of_zero rfl⟩

theorem witness_AssertionsNeverFire :
    ∃ t, step (tHost 8 (.issue 0x30)) = .next t ∧ (tHost 8 (.issue 0x30)).fault ≠ 3 ∧ (tHost 8 (.issue 0x30)).fault ≠ 4 :=
  ⟨_, rfl, by decide, by decide⟩

end Sys2Proof.Machine
end

section
/-! PROOFS. What one step of the machine can do, said once, and from it the two statements about every step: the
parameters stay as they are (O13), and the invariant is kept (O12). -/

namespace Sys2Proof.Machine

/-! ### What a running engine can do in one host action -/

/-- The state changes of a running engine: those of the commands (10_state.md R17) and those of the host's loads and
register writes. The host's reads and the reset, which a halted engine performs too, stand beside it in
`hostAct_effect`. -/
inductive Effect (s : State) : State → Prop
  /-- a GET, CHECKSUM -/
  | result (v : Nat) : Effect s (s.withRes v)
  /-- GETTEXT -/
  | text (t : List Char7) (hlen : t.length ≤ s.par.bufLen) : Effect s (s.withText t)
  /-- a SET and a load, which stay below BUF_LEN, and a transform, which stays below 512 -/
  | store (b : Buf) (ofs : Nat) (vs : List Byte) (hfit : ofs + vs.length ≤ max 512 s.par.bufLen) :
      Effect s (s.withBuffer b ((s.buffer b).splice ofs vs))
  /-- a fault that writes FAULT and FAULT_INFO alone (60_exceptions.md R223) -/
  | fault (c : Cause) (info : Reg32) (hc : c ∈ [.outOfRange, .paddingNonZero, .ioFailure, .illegalCommand]) :
      Effect s (s.faultEntry c info)
  /-- BUILD -/
  | built : Effect s ((s.withLog (buildTable s)).withViol (buildWarnings s))
  /-- ANALYZE that completes -/
  | analyzed (hmagic : hdrMagic.get s.log = Config.magic) :
      Effect s ((s.withReport (analyzeReport s.par s.log)).withViol (analyzeWarnings s.par s.log))
  /-- ANALYZE that faults (R225) -/
  | rejected (c : Cause) (info : Reg32) (k : ViolKind) (expected found : Nat)
      (hc : c = .trailingNonZero ∨ c = .badMagic) :
      Effect s ((s.withReportInvalid.withViol [violation k none expected found]).faultEntry c info)
  /-- a load that fails (R233) -/
  | loadLost (d : Nat) (vs : List Byte) (hlen : vs.length = s.par.bufLen) :
      Effect s (({ s with draws := d }.withPhys (s.phys.splice 0 vs)).faultEntry .ioFailure 0)
  /-- HostWriteReg -/
  | config (n : Nat) (v : Reg32) : Effect s (s.writeRegister n v)

section Effects
variable {s t : State}

theorem getField_effect {n : Nat} {b : Buf} {ofs : Nat} (h : getField n b ofs s = .next t) : Effect s t := by
  rcases checked_cases ofs n s fun s => s.withRes (memRead (s.buffer b) ofs n) with ⟨_, e⟩ | ⟨_, e⟩
  · cases e.symm.trans h; exact .fault _ _ (by simp)
  · cases e.symm.trans h; exact .result _

theorem setField_effect {n : Nat} {b : Buf} {ofs v : Nat} (h : setField n b ofs v s = .next t) : Effect s t := by
  rcases checked_cases ofs n s fun s => s.withBuffer b (memWrite (s.buffer b) ofs n v) with ⟨_, e⟩ | ⟨hfit, e⟩
  · cases e.symm.trans h; exact .fault _ _ (by simp)
  · cases e.symm.trans h
    exact .store b ofs (toLittleEndian n v) (by rw [length_toLittleEndian]; omega)

theorem execGettext_effect {b : Buf} {ofs len : Nat} (h : execGettext b ofs len s = .next t) : Effect s t := by
  rcases checked_cases ofs len s fun s => s.withText (getText s.par (s.buffer b) ofs len) with
    ⟨_, e⟩ | ⟨hfit, e⟩
  · cases e.symm.trans h; exact .fault _ _ (by simp)
  · cases e.symm.trans h; exact .text _ (by rw [length_getText]; omega)

theorem execDeinterleave_effect (h : execDeinterleave s = .next t) : Effect s t := by
  rcases execDeinterleave_cases s with ⟨_, _, e⟩ | ⟨_, e⟩
  · cases e.symm.trans h; exact .fault _ _ (by simp)
  · cases e.symm.trans h; exact .store .log 0 _ (by rw [length_deinterleaved]; omega)

theorem execInterleave_effect (h : execInterleave s = .next t) : Effect s t := by
  rcases execInterleave_cases s with ⟨_, _, e⟩ | ⟨_, e⟩
  · cases e.symm.trans h; exact .fault _ _ (by simp)
  · cases e.symm.trans h; exact .store .phys 0 _ (by rw [length_interleaved]; omega)

theorem execBuild_effect (h : execBuild s = .next t) : Effect s t := by
  rcases execBuild_cases s with ⟨_, e⟩ | ⟨_, e⟩
  · cases e.symm.trans h
  · cases e.symm.trans h; exact .built

theorem execAnalyze_effect (h : execAnalyze s = .next t) : Effect s t := by
  rcases execAnalyze_cases s with ⟨_, e⟩ | ⟨_, _, _, e⟩ | ⟨_, _, _, e⟩ | ⟨hmagic, _, _, _, e⟩
  · cases e.symm.trans h; exact .rejected _ _ _ _ _ (.inr rfl)
  · cases e.symm.trans h; exact .rejected _ _ _ _ _ (.inl rfl)
  · cases e.symm.trans h
  · cases e.symm.trans h; exact .analyzed hmagic

/-- A command that completes has one of the effects. -/
theorem exec_effect {i : Instr} (h : exec i s = .next t) : Effect s t := by
  cases i with
  | getu8 | getu16 | getu24 => exact getField_effect h
  | gettext => exact execGettext_effect h
  | setu8 | setu16 | setu24 => exact setField_effect h
  | deinterleave => exact execDeinterleave_effect h
  | interleave => exact execInterleave_effect h
  | checksum => cases h; exact .result _
  | build => exact execBuild_effect h
  | analyze => exact execAnalyze_effect h

/-! ### What a host action and a step can do -/

/-- An action that a halted engine ignores leaves the state alone or does, on a running engine, what it does. -/
theorem ifRunning_next {f : State → Out} (h : ifRunning s f = .next t) : t = s ∨ (s.running ∧ f s = .next t) := by
  rcases ifRunning_cases s f with ⟨_, e⟩ | ⟨hrun, e⟩
  · cases e.symm.trans h; exact .inl rfl
  · exact .inr ⟨hrun, e.symm.trans h⟩

theorem ifRunning_effect {f : State → Out} (hf : f s = .next t → Effect s t) (h : ifRunning s f = .next t) :
    t = s ∨ (s.running ∧ Effect s t) :=
  (ifRunning_next h).imp_right (And.imp_right hf)

theorem hostLoad_effect {data : List Byte} (h : hostLoad data s = .next t) : t = s ∨ (s.running ∧ Effect s t) := by
  refine ifRunning_effect (fun h => ?_) h
  split at h
  · rename_i hlen
    cases h; exact .store .phys 0 data (by omega)
  · cases h

theorem hostLoadFails_effect (h : hostLoadFails s = .next t) : t = s ∨ (s.running ∧ Effect s t) := by
  refine ifRunning_effect (fun h => ?_) h
  cases h; exact .loadLost _ _ (by simp)

theorem hostStore_next (h : hostStore s = .next t) : t = s ∨ ∃ r, t = s.withReply r := by
  rcases ifRunning_next h with e | ⟨_, e⟩
  · exact .inl e
  · cases e; exact .inr ⟨_, rfl⟩

theorem hostStoreFails_effect (h : hostStoreFails s = .next t) : t = s ∨ (s.running ∧ Effect s t) := by
  refine ifRunning_effect (fun h => ?_) h
  cases h; exact .fault _ _ (by simp)

theorem hostWriteReg_effect {n : Nat} {v : Reg32} (h : hostWriteReg n v s = .next t) :
    t = s ∨ (s.running ∧ Effect s t) := by
  refine ifRunning_effect (fun h => ?_) h
  cases h; exact .config n v

theorem hostIssue_effect {w : Command} (h : hostIssue w s = .next t) : t = s ∨ (s.running ∧ Effect s t) := by
  refine ifRunning_effect (fun h => ?_) h
  split at h
  · exact exec_effect h
  · cases h; exact .fault _ _ (by simp)

/-- All that a host action can do: a reply, a reset, nothing, or an effect on a running engine. -/
theorem hostAct_effect {a : HostAction} (h : hostAct a s = .next t) :
    (∃ r, t = s.withReply r) ∨ t = s.hostReset ∨ t = s ∨ (s.running ∧ Effect s t) := by
  cases a with
  | load => exact .inr (.inr (hostLoad_effect h))
  | loadFails => exact .inr (.inr (hostLoadFails_effect h))
  | store =>
    rcases hostStore_next h with rfl | hr
    · exact .inr (.inr (.inl rfl))
    · exact .inl hr
  | storeFails => exact .inr (.inr (hostStoreFails_effect h))
  | writeReg => exact .inr (.inr (hostWriteReg_effect h))
  | readReg => cases h; exact .inl ⟨_, rfl⟩
  | readResult => cases h; exact .inl ⟨_, rfl⟩
  | issue => exact .inr (.inr (hostIssue_effect h))
  | reset => cases h; exact .inr (.inl rfl)

/-- A property that the host's bookkeeping, a reset and every effect on a running engine keep, every step keeps. -/
theorem step_preserves {P : State → Prop} (haccept : ∀ s rest, P s → P (s.accept rest))
    (hreply : ∀ s r, P s → P (s.withReply r)) (hreset : ∀ s, P s → P s.hostReset)
    (heffect : ∀ s t, P s → s.running → Effect s t → P t) (hs : P s) (h : step s = .next t) : P t := by
  rcases step_cases s with ⟨_, e⟩ | ⟨a, rest, _, e⟩
  · cases e.symm.trans h; exact hs
  · have hs' := haccept s rest hs
    rcases hostAct_effect (e.symm.trans h) with ⟨r, rfl⟩ | rfl | rfl | ⟨hrun, heff⟩
    · exact hreply _ r hs'
    · exact hreset _ hs'
    · exact hs'
    · exact heffect _ _ hs' hrun heff

/-! ### The parameters -/

theorem Effect.par_eq (h : Effect s t) : t.par = s.par := by
  cases h with
  | store b => cases b <;> rfl
  | config n v => rcases writeRegister_cases s n v with e | e | e | e | e | e | e | e <;> rw [e]
  | result | text | fault | loadLost => rfl
  | built => rw [State.withViol_par, State.withLog_par]
  | analyzed => rw [State.withViol_par, State.withReport_par]
  | rejected => rw [State.faultEntry_par, State.withViol_par, State.withReportInvalid_par]

end Effects

/-- Settles O13: the parameters stand outside everything a step writes, the reset included. -/
theorem stepKeepsTheParameters : Obligations.StepKeepsTheParameters := fun s _ h =>
  step_preserves (P := fun u => u.par = s.par) (fun u rest hu => (u.accept_par rest).trans hu)
    (fun u r hu => (u.withReply_par r).trans hu) (fun u hu => u.hostReset_par.trans hu)
    (fun _ _ hu _ heff => heff.par_eq.trans hu) rfl h

/-! ### Warnings -/

/-- Records that are warnings: of a kind that is not fatal, and marked so (R216, R217). -/
def Violation.IsWarning (v : Violation) : Prop := v.kind.isFatal = false ∧ v.fatal = false

/-- One record of a kind that is not fatal, made or not as a test says: the shape of every warning but W_CONTIG. -/
theorem isWarning_of_mem_ite {c : Prop} [Decidable c] {k : ViolKind} (hk : k.isFatal = false) {entry : Option (Fin 16)}
    {expected found : Nat} : ∀ v ∈ if c then [violation k entry expected found] else [], v.IsWarning := by
  split
  · exact List.forall_mem_singleton.mpr ⟨hk, hk⟩
  · exact List.forall_mem_nil _

theorem buildWarnings_isWarning (s : State) : ∀ v ∈ buildWarnings s, v.IsWarning := isWarning_of_mem_ite rfl

theorem length_buildWarnings (s : State) : (buildWarnings s).length ≤ 1 := by
  unfold buildWarnings
  split <;> simp

theorem checksumWarnings_isWarning (m : Mem) : ∀ v ∈ checksumWarnings m, v.IsWarning := isWarning_of_mem_ite rfl

theorem totalWarnings_isWarning (p : Params) (m : Mem) : ∀ v ∈ totalWarnings p m, v.IsWarning :=
  isWarning_of_mem_ite rfl

theorem geometryWarnings_isWarning (m : Mem) : ∀ v ∈ geometryWarnings m, v.IsWarning := isWarning_of_mem_ite rfl

theorem contigWarnings_isWarning (bc : Nat) (es : List EntryRec) : ∀ v ∈ contigWarnings bc es, v.IsWarning := by
  intro v hv
  obtain ⟨hkind, hfatal⟩ := contigWarnings_kind bc es v hv
  exact ⟨by rw [hkind]; rfl, hfatal⟩

/-- A completed ANALYZE records warnings only (R200). -/
theorem analyzeWarnings_isWarning (p : Params) (m : Mem) : ∀ v ∈ analyzeWarnings p m, v.IsWarning :=
  List.forall_mem_append.mpr ⟨List.forall_mem_append.mpr ⟨List.forall_mem_append.mpr
    ⟨contigWarnings_isWarning _ _, checksumWarnings_isWarning m⟩, totalWarnings_isWarning p m⟩,
    geometryWarnings_isWarning m⟩

/-! ### The invariant under each update -/

/-- A report of a completed ANALYZE carries the magic that the block was tested for (R172). -/
theorem analyzeReport_magic {p : Params} {m : Mem} (h : hdrMagic.get m = Config.magic) :
    (analyzeReport p m).magic = 0xAEAE := congrArg (BitVec.ofNat 16) h

theorem Cause.code_ne_zero (c : Cause) : c.code ≠ 0 := by cases c <;> decide

namespace State.Inv
variable {s t : State}

theorem of_draws (h : s.Inv) (d : Nat) : State.Inv { s with draws := d } := { h with }

theorem withRes (h : s.Inv) (v : Nat) : (s.withRes v).Inv := { h with }

theorem accept (h : s.Inv) (rest : List HostAction) : (s.accept rest).Inv := { h with }

theorem withReply (h : s.Inv) (r : HostReply) : (s.withReply r).Inv := { h with }

theorem writeRegister (h : s.Inv) (n : Nat) (v : Reg32) : (s.writeRegister n v).Inv := by
  rcases writeRegister_cases s n v with e | e | e | e | e | e | e | e <;> rw [e] <;> exact { h with }

theorem withText (h : s.Inv) {txt : List Char7} (hlen : txt.length ≤ s.par.bufLen) : (s.withText txt).Inv :=
  { h with
    txtLen := by
      obtain ⟨_, hmax, _⟩ := h.params
      rw [State.withText_txtLen, State.withText_txt, BitVec.toNat_ofNat]
      exact Nat.mod_eq_of_lt (by omega) }

theorem withLog (h : s.Inv) {m : Mem} (hwf : m.wf) (hin : m.within s.par.bufLen) : (s.withLog m).Inv :=
  { h with logWf := hwf, logWithin := hin }

theorem withPhys (h : s.Inv) {m : Mem} (hwf : m.wf) (hin : m.within s.par.bufLen) : (s.withPhys m).Inv :=
  { h with physWf := hwf, physWithin := hin }

theorem withBuffer_splice (h : s.Inv) (b : Buf) {ofs : Nat} {vs : List Byte}
    (hfit : ofs + vs.length ≤ max 512 s.par.bufLen) : (s.withBuffer b ((s.buffer b).splice ofs vs)).Inv := by
  have hfit' : ofs + vs.length ≤ s.par.bufLen := by rwa [max_eq_right h.params.1] at hfit
  cases b with
  | log => exact h.withLog (Mem.wf_splice h.logWf _ _) (Mem.within_splice h.logWithin hfit')
  | phys => exact h.withPhys (Mem.wf_splice h.physWf _ _) (Mem.within_splice h.physWithin hfit')

theorem withReport (h : s.Inv) {r : Report} (hr : r.valid = true → r.magic = 0xAEAE) : (s.withReport r).Inv :=
  { h with validMagic := hr }

theorem withReportInvalid (h : s.Inv) : s.withReportInvalid.Inv := { h with validMagic := by simp }

theorem withViol_warnings (h : s.Inv) {vs : List Violation} (hlen : vs.length < 256) (hw : ∀ v ∈ vs, v.IsWarning) :
    (s.withViol vs).Inv :=
  { h with
    violCount := by
      rw [State.withViol_violCount, State.withViol_viol, BitVec.toNat_ofNat]
      exact Nat.mod_eq_of_lt hlen
    fatalKind := fun v hv => (hw v hv).2.trans (hw v hv).1.symm
    fatalHalts := fun ⟨v, hv, hf⟩ => absurd ((hw v hv).2.symm.trans hf) Bool.false_ne_true }

/-- Fault entry from a running engine keeps the invariant: no fatal record stands in VIOL yet. -/
theorem faultEntry (h : s.Inv) (hrun : s.running) {c : Cause} (hc : c ∈ Cause.canOccur) (info : Reg32) :
    (s.faultEntry c info).Inv :=
  { h with
    cause := .inr ⟨c, hc, rfl⟩
    infoZero := fun hz => absurd hz c.code_ne_zero
    fatalHalts := fun hf => by
      rcases h.fatalHalts hf with e | e
      · exact absurd (e.symm.trans hrun) (Cause.code_ne_zero _)
      · exact absurd (e.symm.trans hrun) (Cause.code_ne_zero _) }

/-- The fault of ANALYZE brings its one record, fatal or not, together with the fault (R225). -/
theorem faultEntry_withViol (h : s.Inv) {c : Cause} (hc : c = .trailingNonZero ∨ c = .badMagic) (info : Reg32)
    (k : ViolKind) (entry : Option (Fin 16)) (expected found : Nat) :
    ((s.withViol [violation k entry expected found]).faultEntry c info).Inv :=
  { h with
    violCount := rfl
    cause := .inr ⟨c, by rcases hc with rfl | rfl <;> decide, rfl⟩
    infoZero := fun hz => absurd hz c.code_ne_zero
    fatalKind := List.forall_mem_singleton.mpr rfl
    fatalHalts := fun _ => by
      rcases hc with rfl | rfl
      · exact .inl rfl
      · exact .inr rfl }

/-- What R26 specifies, and the free values of the rest, meet the invariant. -/
theorem hostReset (h : s.Inv) : s.hostReset.Inv where
  params := by rw [State.hostReset_par]; exact h.params
  physWf := freeBlock_wf _
  logWf := freeBlock_wf _
  physWithin := by rw [State.hostReset_par]; exact Mem.within_mono (freeBlock_within _) h.params.1
  logWithin := by rw [State.hostReset_par]; exact Mem.within_mono (freeBlock_within _) h.params.1
  violCount := rfl
  txtLen := (length_freeText _ _).symm
  cause := .inl rfl
  infoZero := fun _ => rfl
  fatalKind := List.forall_mem_nil _
  fatalHalts := fun ⟨_, hv, _⟩ => absurd hv List.not_mem_nil
  validMagic := by simp

/-- Every effect on a running engine keeps the invariant. -/
theorem effect (h : s.Inv) (hrun : s.running) (he : Effect s t) : t.Inv := by
  cases he with
  | result v => exact h.withRes v
  | text txt hlen => exact h.withText hlen
  | store b ofs vs hfit => exact h.withBuffer_splice b hfit
  | fault c info hc => exact h.faultEntry hrun (by revert c; decide) info
  | built =>
    exact (h.withLog (wf_buildTable h.logWf) (within_buildTable h.logWithin h.params.1)).withViol_warnings
      (lt_of_le_of_lt (length_buildWarnings s) (by decide)) (buildWarnings_isWarning s)
  | analyzed hmagic =>
    exact (h.withReport fun _ => analyzeReport_magic hmagic).withViol_warnings
      (lt_of_le_of_lt (length_analyzeWarnings _ _) (by decide)) (analyzeWarnings_isWarning _ _)
  | rejected c info k expected found hc => exact h.withReportInvalid.faultEntry_withViol hc info k none expected found
  | loadLost d vs hlen =>
    have hload := (h.of_draws d).withBuffer_splice .phys (ofs := 0) (vs := vs) (by simp [hlen])
    exact hload.faultEntry hrun (by decide) 0
  | config n v => exact h.writeRegister n v

end State.Inv

/-- Settles O12: the invariant is kept by each update a step is made of. -/
theorem everyStepKeepsTheInvariant : Obligations.EveryStepKeepsTheInvariant := fun _ _ =>
  step_preserves (fun _ rest h => h.accept rest) (fun _ r h => h.withReply r) (fun _ h => h.hostReset)
    (fun _ _ h hrun he => h.effect hrun he)

end Sys2Proof.Machine
end

section
/-! PROOFS. The state and the port: what a step does with the first action of the host's list (O7, O16, O17, O18), what
the reset state holds (O9, O11), and that a halted engine stays as it is until a reset (O15). -/

namespace Sys2Proof.Machine

section Port
variable {s : State} {rest : List HostAction}

/-! ### The first action of the host's list -/

theorem step_of_inbox_cons {a : HostAction} (h : s.inbox = a :: rest) : step s = hostAct a (s.accept rest) := by
  rw [step, nextAction, h]

theorem hostIssue_of_decode {w : Command} {i : Instr} (hrun : s.running) (hw : decode w = .ok i) :
    hostIssue w s = exec i s := by
  rw [hostIssue, ifRunning_running _ hrun, hw]

theorem step_issue {w : Command} {i : Instr} (hrun : s.running) (h : s.inbox = .issue w :: rest)
    (hw : decode w = .ok i) : step s = exec i (s.accept rest) :=
  (step_of_inbox_cons h).trans (hostIssue_of_decode hrun hw)

theorem decode_of_decodeTableWord {nbits w : Nat} {i : Instr} (h : decodeTableWord nbits w = some i) :
    decode (BitVec.ofNat 64 (w % 2 ^ nbits)) = .ok i := by
  unfold decodeTableWord at h
  split at h
  · rename_i hw
    cases h; exact hw
  · cases h

theorem step_readReg {n : Nat} (h : s.inbox = .readReg n :: rest) :
    step s = .next ((s.accept rest).withReply (.reg (s.readRegister n))) := step_of_inbox_cons h

theorem step_writeReg {n : Nat} {v : Reg32} (hrun : s.running) (h : s.inbox = .writeReg n v :: rest) :
    step s = .next ((s.accept rest).writeRegister n v) := by
  rw [step_of_inbox_cons h, hostAct, hostWriteReg, ifRunning_running]
  exact hrun

/-! ### The register numbers that no register has -/

theorem readRegister_of_unlisted {n : Nat} (h : n = 0x07 ∨ 0x0D ≤ n) : s.readRegister n = 0 := by
  unfold State.readRegister
  iterate 12 rw [if_neg (by omega)]

theorem writeRegister_of_readOnly {n : Nat} (h : 0x07 ≤ n) (v : Reg32) : s.writeRegister n v = s := by
  unfold State.writeRegister
  iterate 7 rw [if_neg (by omega)]

end Port

/-- Settles O7: a word put in front of the list is issued like any other, so the second part is a case of the first. -/
theorem stepRunsTheDecodedCommand : Obligations.StepRunsTheDecodedCommand :=
  ⟨fun _ _ _ _ hrun hin hw => step_issue hrun hin hw,
    fun _ _ _ hrun hw => step_issue hrun rfl (decode_of_decodeTableWord hw)⟩

/-- Settles O16: one equation per number of the table, and one for all the others. -/
theorem registerReadsByNumber : Obligations.RegisterReadsByNumber := by
  intro s n rest hin
  refine ⟨s.readRegister n, step_readReg hin, ?_, ?_, ?_, ?_, ?_, ?_, ?_, ?_, ?_, ?_, ?_, ?_, readRegister_of_unlisted⟩
  case refine_9 => rintro rfl; exact BitVec.toNat_setWidth_of_le (Nat.le_add_right 8 24)
  case refine_11 => rintro rfl; exact BitVec.toNat_setWidth_of_le (Nat.le_add_right 8 24)
  all_goals rintro rfl; rfl

/-- Settles O17: one equation per configuration register, and one for all the other numbers. -/
theorem registerWritesByNumber : Obligations.RegisterWritesByNumber := by
  intro s n v rest hrun hin
  have hstep := step_writeReg hrun hin
  refine ⟨?_, ?_, ?_, ?_, ?_, ?_, ?_, fun hn => ?_⟩
  case refine_8 => rw [hstep, writeRegister_of_readOnly hn]; rfl
  all_goals rintro rfl; exact hstep

/-- Settles O18: the reply holds the three fields of the state itself. -/
theorem hostReadsTheResults : Obligations.HostReadsTheResults := fun s _ hin =>
  ⟨s.txt, s.report, s.viol, step_of_inbox_cons hin, rfl, rfl, rfl⟩

/-! ### The reset state -/

/-- Settles O9: what R26 specifies; the padding is zero because no byte is listed. -/
theorem resetLeavesTheSpecifiedValues : Obligations.ResetLeavesTheSpecifiedValues where
  left :=
    { fault := rfl
      faultInfo := rfl
      viol := rfl
      violCount := rfl
      reportInvalid := rfl
      physPadding := fun k _ => MemLaw.read_nil k
      logPadding := fun k _ => MemLaw.read_nil k }
  right := rfl

theorem wf_configParams : Config.params.wf := ⟨by decide, by decide, by decide, by decide⟩

/-- Settles O11: the base case of the invariant that `everyStepKeepsTheInvariant` carries on. -/
theorem resetStateIsSound : Obligations.ResetStateIsSound where
  params := wf_configParams
  physWf := Mem.wf_nil
  logWf := Mem.wf_nil
  physWithin := Mem.within_nil _
  logWithin := Mem.within_nil _
  violCount := rfl
  txtLen := rfl
  cause := .inl rfl
  infoZero := fun _ => rfl
  fatalKind := List.forall_mem_nil _
  fatalHalts := fun ⟨_, hv, _⟩ => absurd hv List.not_mem_nil
  validMagic := fun h => absurd h Bool.false_ne_true

/-! ### The halted state -/

section Halted
variable {s : State}

/-- A halted engine answers an action other than reset with a reply at most (R224). -/
theorem hostAct_halted {a : HostAction} (hhalt : s.fault ≠ 0) (ha : a ≠ .reset) :
    ∃ r, hostAct a s = .next (s.withReply r) := by
  cases a with
  | load | loadFails | store | storeFails | writeReg | issue =>
    refine ⟨s.reply, ?_⟩
    simp only [hostAct, hostLoad, hostLoadFails, hostStore, hostStoreFails, hostWriteReg, hostIssue]
    exact ifRunning_halted _ hhalt
  | readReg n => exact ⟨.reg (s.readRegister n), rfl⟩
  | readResult => exact ⟨.result s.txt s.report s.viol, rfl⟩
  | reset => exact absurd rfl ha

/-- One step of a halted engine with no reset to come moves on the host's list and the reply, and nothing else. -/
theorem step_halted (hhalt : s.fault ≠ 0) (hreset : HostAction.reset ∉ s.inbox) :
    ∃ rest r, step s = .next { s with inbox := rest, reply := r } ∧ HostAction.reset ∉ rest := by
  rcases step_cases s with ⟨_, hstep⟩ | ⟨a, rest, hin, hstep⟩
  · exact ⟨s.inbox, s.reply, hstep, hreset⟩
  · rw [hin] at hreset
    obtain ⟨hne, hrest⟩ := List.ne_and_not_mem_of_not_mem_cons hreset
    obtain ⟨r, hact⟩ := hostAct_halted (s := s.accept rest) hhalt hne.symm
    exact ⟨rest, r, hstep.trans hact, hrest⟩

theorem run_succ_of_step {k : Nat} {t : State} (h : step s = .next t) :
    Host.Core.run Sys2Proof.core (k + 1) s = Host.Core.run Sys2Proof.core k t := by
  have hcore : Sys2Proof.core.step s = .next t := h
  simp only [Host.Core.run, hcore]

end Halted

/-- Settles O15, by induction on the number of steps: a step keeps both hypotheses, the fault because it is part of the
state that stays, the other because the host's list only gets shorter. -/
theorem haltedUntilReset : Obligations.HaltedUntilReset := by
  intro k
  induction k with
  | zero => exact fun s _ _ => ⟨s, rfl, rfl⟩
  | succ k ih =>
    intro s hhalt hreset
    obtain ⟨rest, r, hstep, hrest⟩ := step_halted hhalt hreset
    obtain ⟨t, hrun, hsame⟩ := ih { s with inbox := rest, reply := r } hhalt hrest
    exact ⟨t, (run_succ_of_step hstep).trans hrun, hsame⟩

end Sys2Proof.Machine
end

section
/-! PROOFS. Which command writes what (10_state.md R17), said once, and from it the statement (O57) field by field. -/

namespace Sys2Proof.Machine

/-! ### Bytes outside a store -/

theorem read_memWrite_outside (m : Mem) {o n a : Nat} (v : Nat) (h : a < o ∨ o + n ≤ a) :
    (memWrite m o n v).read a = m.read a := by
  rw [read_memWrite, if_neg (by omega)]

theorem read_put_of_ge {f : FieldSpec} (hf : f ∈ headerFields) (m : Mem) (v : Nat) {a : Nat} (ha : 0x100 ≤ a) :
    (f.put m v).read a = m.read a :=
  read_memWrite_outside m v (.inr (le_trans (header_field_fits f hf) ha))

theorem read_put_bytes_of_ge {f : FieldSpec} (hf : f ∈ headerFields) (m : Mem) {vs : List Byte}
    (hv : vs.length = f.width) {a : Nat} (ha : 0x100 ≤ a) : (m.splice f.ofs vs).read a = m.read a :=
  Mem.read_splice_of_ge m vs (by rw [hv]; exact le_trans (header_field_fits f hf) ha)

theorem read_buildHeader_of_ge (s : State) (m : Mem) {a : Nat} (ha : 512 ≤ a) :
    (buildHeader s m).read a = m.read a := by
  have hhdr : 0x100 ≤ a := by omega
  have hblock := Mem.read_splice_of_ge m (o := 0) (List.replicate Config.blockLen 0) (a := a) (by simpa using ha)
  unfold buildHeader
  rw [read_put_bytes_of_ge ?_ _ ?_ hhdr]
  iterate 7 rw [read_put_of_ge ?_ _ _ hhdr]
  iterate 3 rw [read_put_bytes_of_ge ?_ _ ?_ hhdr]
  rw [read_put_of_ge ?_ _ _ hhdr, hblock]
  all_goals simp [headerFields, hdrRsv08, hdrRsv0F]

/-- BUILD writes inside the block only (R164). -/
theorem read_buildTable_of_ge (s : State) {a : Nat} (ha : 512 ≤ a) : (buildTable s).read a = s.log.read a := by
  have hlen : (slotsFor s.cfgNfull.toNat).length = 16 := length_buildSlots ..
  have hend : entryOfs (0 + 16) = 512 := rfl
  rw [buildTable, writeChecksum, read_put_of_ge (by simp [headerFields]) _ _ (by omega),
    read_writeSlots_outside _ _ _ (.inr (by rw [hlen, hend]; exact ha)), read_buildHeader_of_ge s _ ha]

/-! ### What a completed command writes -/

/-- The commands whose row of R17 has RES. -/
def WritesRes (i : Instr) : Prop := (∃ b o, i = .getu8 b o ∨ i = .getu16 b o ∨ i = .getu24 b o) ∨ i = .checksum

/-- The command is the SET of `n` bytes with these operands. -/
def IsSet (i : Instr) (b : Buf) (o n v : Nat) : Prop :=
  (n = 1 ∧ i = .setu8 b o v) ∨ (n = 2 ∧ i = .setu16 b o v) ∨ (n = 3 ∧ i = .setu24 b o v)

/-- The row of each command in the table of R17: a bound on what it may leave, so fault entry stands for every command
here, though CHECKSUM and BUILD never take it. `exec_writes` ties it to `exec`. -/
inductive CommandWrites (s : State) : Instr → State → Prop
  /-- a fault that writes FAULT and FAULT_INFO alone (60_exceptions.md R223) -/
  | fault (i : Instr) (c : Cause) (info : Reg32) : CommandWrites s i (s.faultEntry c info)
  /-- a GET, CHECKSUM -/
  | result (i : Instr) (v : Nat) (hi : WritesRes i) : CommandWrites s i (s.withRes v)
  | gettext (b : Buf) (o n : Nat) (txt : List Char7) : CommandWrites s (.gettext b o n) (s.withText txt)
  /-- a SET, by its width -/
  | set (i : Instr) (b : Buf) (o n v : Nat) (hi : IsSet i b o n v) :
      CommandWrites s i (s.withBuffer b (memWrite (s.buffer b) o n v))
  | deinterleave (m : Mem) (hm : ∀ a, 512 ≤ a → m.read a = s.log.read a) :
      CommandWrites s .deinterleave (s.withLog m)
  | interleave (m : Mem) (hm : ∀ a, 512 ≤ a → m.read a = s.phys.read a) :
      CommandWrites s .interleave (s.withPhys m)
  | build (m : Mem) (vs : List Violation) (hm : ∀ a, 512 ≤ a → m.read a = s.log.read a) :
      CommandWrites s .build ((s.withLog m).withViol vs)
  /-- ANALYZE that completes -/
  | analyze (r : Report) (vs : List Violation) : CommandWrites s .analyze ((s.withReport r).withViol vs)
  /-- ANALYZE that faults (R225) -/
  | analyzeFault (c : Cause) (info : Reg32) (vs : List Violation) :
      CommandWrites s .analyze ((s.withReportInvalid.withViol vs).faultEntry c info)

section Commands
variable {s t : State} {i : Instr}

/-- A range-checked access writes what it writes when it is in range. -/
theorem checked_writes {o n : Nat} {f : State → State} (hf : CommandWrites s i (f s))
    (h : checked o n s f = .next t) : CommandWrites s i t := by
  rcases checked_cases o n s f with ⟨_, e⟩ | ⟨_, e⟩
  · cases e.symm.trans h; exact .fault ..
  · cases e.symm.trans h; exact hf

theorem getField_writes {b : Buf} {o n : Nat} (hi : WritesRes i) (h : getField n b o s = .next t) :
    CommandWrites s i t :=
  checked_writes (f := fun s => s.withRes (memRead (s.buffer b) o n)) (.result _ _ hi) h

theorem execGettext_writes {b : Buf} {o n : Nat} (h : execGettext b o n s = .next t) :
    CommandWrites s (.gettext b o n) t :=
  checked_writes (f := fun s => s.withText (getText s.par (s.buffer b) o n)) (.gettext ..) h

theorem setField_writes {b : Buf} {o n v : Nat} (hi : IsSet i b o n v) (h : setField n b o v s = .next t) :
    CommandWrites s i t :=
  checked_writes (f := fun s => s.withBuffer b (memWrite (s.buffer b) o n v)) (.set _ b o n v hi) h

theorem execDeinterleave_writes (h : execDeinterleave s = .next t) : CommandWrites s .deinterleave t := by
  rcases execDeinterleave_cases s with ⟨_, _, e⟩ | ⟨_, e⟩
  · cases e.symm.trans h; exact .fault ..
  · cases e.symm.trans h
    exact .deinterleave _ fun a ha => Mem.read_splice_of_ge _ _ (by rw [length_deinterleaved]; omega)

theorem execInterleave_writes (h : execInterleave s = .next t) : CommandWrites s .interleave t := by
  rcases execInterleave_cases s with ⟨_, _, e⟩ | ⟨_, e⟩
  · cases e.symm.trans h; exact .fault ..
  · cases e.symm.trans h
    exact .interleave _ fun a ha => Mem.read_splice_of_ge _ _ (by rw [length_interleaved]; omega)

theorem execBuild_writes (h : execBuild s = .next t) : CommandWrites s .build t := by
  rcases execBuild_cases s with ⟨_, e⟩ | ⟨_, e⟩
  · cases e.symm.trans h
  · cases e.symm.trans h
    exact .build _ _ fun _ => read_buildTable_of_ge s

theorem execAnalyze_writes (h : execAnalyze s = .next t) : CommandWrites s .analyze t := by
  rcases execAnalyze_cases s with ⟨_, e⟩ | ⟨_, _, _, e⟩ | ⟨_, _, _, e⟩ | ⟨_, _, _, _, e⟩
  · cases e.symm.trans h; exact .analyzeFault ..
  · cases e.symm.trans h; exact .analyzeFault ..
  · cases e.symm.trans h
  · cases e.symm.trans h; exact .analyze ..

/-- A command that completes writes what its row says. -/
theorem exec_writes (h : exec i s = .next t) : CommandWrites s i t := by
  cases i with
  | getu8 b o => exact getField_writes (.inl ⟨b, o, .inl rfl⟩) h
  | getu16 b o => exact getField_writes (.inl ⟨b, o, .inr (.inl rfl)⟩) h
  | getu24 b o => exact getField_writes (.inl ⟨b, o, .inr (.inr rfl)⟩) h
  | gettext => exact execGettext_writes h
  | setu8 => exact setField_writes (.inl ⟨rfl, rfl⟩) h
  | setu16 => exact setField_writes (.inr (.inl ⟨rfl, rfl⟩)) h
  | setu24 => exact setField_writes (.inr (.inr ⟨rfl, rfl⟩)) h
  | deinterleave => exact execDeinterleave_writes h
  | interleave => exact execInterleave_writes h
  | checksum => cases h; exact .result _ _ (.inr rfl)
  | build => exact execBuild_writes h
  | analyze => exact execAnalyze_writes h

/-- A SET changes the selected buffer alone, from its offset on for its width. -/
theorem read_buffer_set (s : State) (b c : Buf) (o n v : Nat) :
    (∀ a, ((s.withBuffer c (memWrite (s.buffer c) o n v)).buffer b).read a = (s.buffer b).read a) ∨
      b = c ∧ ∀ a, a < o ∨ o + n ≤ a →
        ((s.withBuffer c (memWrite (s.buffer c) o n v)).buffer b).read a = (s.buffer b).read a := by
  by_cases hb : b = c
  · subst hb
    exact .inr ⟨rfl, fun a ha => by rw [State.buffer_withBuffer, read_memWrite_outside _ v ha]⟩
  · exact .inl fun a => by rw [State.buffer_withBuffer_ne s c b _ hb]

namespace CommandWrites

theorem read_buffer (h : CommandWrites s i t) (b : Buf) :
    (∀ a, (t.buffer b).read a = (s.buffer b).read a) ∨
      ((b = .log ∧ (i = .deinterleave ∨ i = .build) ∨ b = .phys ∧ i = .interleave) ∧
        ∀ a, 512 ≤ a → (t.buffer b).read a = (s.buffer b).read a) ∨
      ∃ o v, (i = .setu8 b o v ∧ ∀ a, a < o ∨ o + 1 ≤ a → (t.buffer b).read a = (s.buffer b).read a) ∨
        (i = .setu16 b o v ∧ ∀ a, a < o ∨ o + 2 ≤ a → (t.buffer b).read a = (s.buffer b).read a) ∨
        (i = .setu24 b o v ∧ ∀ a, a < o ∨ o + 3 ≤ a → (t.buffer b).read a = (s.buffer b).read a) := by
  cases h with
  | fault | result | gettext | analyze | analyzeFault => cases b <;> exact .inl fun _ => rfl
  | set i c o n v hi =>
    rcases read_buffer_set s b c o n v with hsame | ⟨rfl, hout⟩
    · exact .inl hsame
    · refine .inr (.inr ⟨o, v, ?_⟩)
      rcases hi with ⟨rfl, hi⟩ | ⟨rfl, hi⟩ | ⟨rfl, hi⟩
      · exact .inl ⟨hi, hout⟩
      · exact .inr (.inl ⟨hi, hout⟩)
      · exact .inr (.inr ⟨hi, hout⟩)
  | deinterleave m hm =>
    cases b with
    | log => exact .inr (.inl ⟨.inl ⟨rfl, .inl rfl⟩, hm⟩)
    | phys => exact .inl fun _ => rfl
  | interleave m hm =>
    cases b with
    | log => exact .inl fun _ => rfl
    | phys => exact .inr (.inl ⟨.inr ⟨rfl, rfl⟩, hm⟩)
  | build m vs hm =>
    cases b with
    | log => exact .inr (.inl ⟨.inl ⟨rfl, .inr rfl⟩, hm⟩)
    | phys => exact .inl fun _ => rfl

theorem sameConfig (h : CommandWrites s i t) : sameConfig s t := by
  cases h with
  | set _ b => cases b <;> exact ⟨rfl, rfl, rfl, rfl, rfl, rfl, rfl, rfl⟩
  | fault | result | gettext | deinterleave | interleave | build | analyze | analyzeFault =>
    exact ⟨rfl, rfl, rfl, rfl, rfl, rfl, rfl, rfl⟩

theorem host_eq (h : CommandWrites s i t) : t.inbox = s.inbox ∧ t.reply = s.reply := by
  cases h with
  | set _ b => cases b <;> exact ⟨rfl, rfl⟩
  | fault | result | gettext | deinterleave | interleave | build | analyze | analyzeFault => exact ⟨rfl, rfl⟩

theorem res_eq_or (h : CommandWrites s i t) : t.res = s.res ∨ WritesRes i := by
  cases h with
  | result _ _ hi => exact .inr hi
  | set _ b => cases b <;> exact .inl rfl
  | fault | gettext | deinterleave | interleave | build | analyze | analyzeFault => exact .inl rfl

theorem text_eq_or (h : CommandWrites s i t) :
    (t.txt = s.txt ∧ t.txtLen = s.txtLen) ∨ ∃ b o n, i = .gettext b o n := by
  cases h with
  | gettext b o n => exact .inr ⟨b, o, n, rfl⟩
  | set _ b => cases b <;> exact .inl ⟨rfl, rfl⟩
  | fault | result | deinterleave | interleave | build | analyze | analyzeFault => exact .inl ⟨rfl, rfl⟩

theorem report_eq_or (h : CommandWrites s i t) : t.report = s.report ∨ i = .analyze := by
  cases h with
  | analyze | analyzeFault => exact .inr rfl
  | set _ b => cases b <;> exact .inl rfl
  | fault | result | gettext | deinterleave | interleave | build => exact .inl rfl

theorem viol_eq_or (h : CommandWrites s i t) :
    (t.viol = s.viol ∧ t.violCount = s.violCount) ∨ i = .build ∨ i = .analyze := by
  cases h with
  | build => exact .inr (.inl rfl)
  | analyze | analyzeFault => exact .inr (.inr rfl)
  | set _ b => cases b <;> exact .inl ⟨rfl, rfl⟩
  | fault | result | gettext | deinterleave | interleave => exact .inl ⟨rfl, rfl⟩

theorem fault_eq_or (h : CommandWrites s i t) :
    (t.fault = s.fault ∧ t.faultInfo = s.faultInfo) ∨ t.fault ≠ 0 := by
  cases h with
  | fault _ c => exact .inr c.code_ne_zero
  | analyzeFault c => exact .inr c.code_ne_zero
  | set _ b => cases b <;> exact .inl ⟨rfl, rfl⟩
  | result | gettext | deinterleave | interleave | build | analyze => exact .inl ⟨rfl, rfl⟩

theorem draws_eq_or (h : CommandWrites s i t) : t.draws = s.draws ∨ i = .analyze := by
  cases h with
  | analyze | analyzeFault => exact .inr rfl
  | set _ b => cases b <;> exact .inl rfl
  | fault | result | gettext | deinterleave | interleave | build => exact .inl rfl

end CommandWrites
end Commands

/-- Settles O57: field by field from the command's row. -/
theorem eachCommandWritesItsOwn : Obligations.EachCommandWritesItsOwn := by
  intro i s t _ h
  have hw := exec_writes h
  obtain ⟨hinbox, hreply⟩ := hw.host_eq
  have hphys := hw.read_buffer .phys
  have hlog := hw.read_buffer .log
  simp only [State.buffer_phys, State.buffer_log, reduceCtorEq, false_and, true_and, false_or, or_false] at hphys hlog
  exact ⟨hw.sameConfig, hinbox, hreply, hw.res_eq_or, hw.text_eq_or, hphys, hlog, hw.report_eq_or, hw.viol_eq_or,
    hw.fault_eq_or, hw.draws_eq_or⟩

end Sys2Proof.Machine
end

section
/-! PROOFS. Byte order and layout (20_memory.md): what a GET reads (O23) and a SET stores (O25), said once for every width,
and that the tables of the block's fields leave no gap and no overlap (O56). -/

namespace Sys2Proof.Machine

/-! ### GET and SET in range, for any width -/

section Access
variable {s : State} {n ofs : Nat}

/-- The value of at most four bytes fits RES, so the truncation of `withRes` loses nothing. -/
theorem withRes_memRead_toNat (s : State) (m : Mem) (ofs : Nat) (hn : n ≤ 4) :
    (s.withRes (memRead m ofs n)).res.toNat = memRead m ofs n := by
  have hlt : memRead m ofs n < 2 ^ 32 := calc
    memRead m ofs n < 256 ^ n := memRead_lt m ofs n
    _ ≤ 256 ^ 4 := Nat.pow_le_pow_right (by decide) hn
    _ = 2 ^ 32 := by decide
  rw [State.withRes_res, BitVec.toNat_ofNat, Nat.mod_eq_of_lt hlt]

theorem sameBytes_withRes (s : State) (v : Nat) : sameBytes s (s.withRes v) := fun b _ => by cases b <;> rfl

/-- A GET in range puts the field's value into RES and leaves everything else (R40, R101 to R103). -/
theorem getField_reads (hn : n ≤ 4) (buf : Buf) (h : ofs + n ≤ s.par.bufLen) :
    ∃ t, getField n buf ofs s = .next t ∧ t = { s with res := t.res } ∧ sameBytes s t ∧
      t.res.toNat = memRead (s.buffer buf) ofs n :=
  ⟨_, getField_in h, rfl, sameBytes_withRes s _, withRes_memRead_toNat s _ ofs hn⟩

/-- Byte `k` of a stored value is the value's byte of weight `256^k` (R41). -/
theorem read_memWrite_byte (m : Mem) (ofs v : Nat) {k : Nat} (hk : k < n) :
    (memWrite m ofs n v).read (ofs + k) = BitVec.ofNat 8 (v / 256 ^ k) := by
  rw [read_memWrite, if_pos (by omega), Nat.add_sub_cancel_left]

/-- A SET in range stores the value's low `n` bytes in the selected buffer and leaves everything else, every other byte of
either buffer included (R106 to R108, R113). -/
theorem setField_stores (buf : Buf) (value : Nat) (h : ofs + n ≤ s.par.bufLen) :
    ∃ t, setField n buf ofs value s = .next t ∧ t = s.withBuffer buf (t.buffer buf) ∧
      (∀ k, k < n → (t.buffer buf).read (ofs + k) = BitVec.ofNat 8 (value / 256 ^ k)) ∧
      ∀ b a, b ≠ buf ∨ a < ofs ∨ ofs + n ≤ a → (t.buffer b).read a = (s.buffer b).read a := by
  refine ⟨_, setField_in h, ?_, fun k hk => ?_, fun b a hout => ?_⟩
  · rw [State.buffer_withBuffer]
  · rw [State.buffer_withBuffer, read_memWrite_byte _ _ _ hk]
  · rcases read_buffer_set s b buf ofs n value with hother | ⟨hb, hsame⟩
    · exact hother a
    · exact hsame a (hout.resolve_left (absurd hb))

end Access

/-- Settles O23: the general GET at the widths 1, 2 and 3. -/
theorem getReadsLittleEndian : Obligations.GetReadsLittleEndian := by
  intro s buf ofs _
  refine ⟨fun h => ?_, fun h => ?_, fun h => ?_⟩
  · rw [← memRead_one]; exact getField_reads (by decide) buf h
  · rw [← memRead_two]; exact getField_reads (by decide) buf h
  · rw [← memRead_three]; exact getField_reads (by decide) buf h

/-- Settles O25: the general SET at the widths 1, 2 and 3, with its bytes listed. -/
theorem setStoresTruncatedBytes : Obligations.SetStoresTruncatedBytes := by
  intro s buf ofs value _
  refine ⟨fun h => ?_, fun h => ?_, fun h => ?_⟩ <;>
    obtain ⟨t, hexec, hbuf, hbytes, hframe⟩ := setField_stores buf value h
  · exact ⟨t, hexec, hbuf, by simpa using hbytes 0, hframe⟩
  · exact ⟨t, hexec, hbuf, by simpa using hbytes 0, hbytes 1 (by decide), hframe⟩
  · exact ⟨t, hexec, hbuf, by simpa using hbytes 0, hbytes 1 (by decide), hbytes 2 (by decide), hframe⟩

/-! ### The layout of the block -/

/-- The walk passes a field exactly by standing at its offset. -/
theorem walkCursor_cons_eq_some (cur e : Nat) (f : FieldSpec) (fs : List FieldSpec) :
    walkCursor cur (f :: fs) = some e ↔ f.ofs = cur ∧ walkCursor (cur + f.width) fs = some e := by
  rw [walkCursor]
  split <;> simp [*]

/-- An entry ends where the next one starts (R60). -/
theorem entryOfs_succ (i : Nat) : entryOfs (i + 1) = entryOfs i + 16 := rfl

/-- Settles O56: each field of the two tables starts where the one before it ends. -/
theorem layoutTilesTheBlock : Obligations.LayoutTilesTheBlock := by
  refine ⟨?header, ?entry, rfl, fun i _ => (entryOfs_succ i).symm, rfl⟩
  case header =>
    simp only [headerFields, walkCursor_cons_eq_some]
    decide
  case entry =>
    simp only [entryFields, walkCursor_cons_eq_some]
    decide

end Sys2Proof.Machine
end

section
/-! PROOFS. The encoding (30_encoding.md): one table of the twelve commands, from which the round trip between words and
commands (O1, O2), the mask and match rows (O3), the illegal words (O4) and the written words (O5) follow; and the eight
bytes of a listing (O6). -/

namespace Sys2Proof

/-! ### The fields of a word (R81) -/

section Fields
variable (w v : Command)

theorem append_fields :
    Field.arg w ++ (Field.ofs w ++ (Field.z w ++ (Field.buf w ++ Field.op w))) = w := by
  simp only [Field.arg, Field.ofs, Field.z, Field.buf, Field.op]
  iterate 4 rw [BitVec.extractLsb'_append_extractLsb'_eq_extractLsb' (by rfl)]
  exact BitVec.extractLsb'_eq_self

theorem eq_iff_fields :
    w = v ↔ Field.op w = Field.op v ∧ Field.buf w = Field.buf v ∧ Field.z w = Field.z v ∧ Field.ofs w = Field.ofs v ∧
      Field.arg w = Field.arg v := by
  refine ⟨fun h => by simp only [h, and_self], fun ⟨hop, hbuf, hz, hofs, harg⟩ => ?_⟩
  rw [← append_fields w, ← append_fields v, hop, hbuf, hz, hofs, harg]

end Fields

section FormatC
variable (op : Byte) (buf : BitVec 1) {ofs arg : Nat}

theorem field_buf_formatC (ofs arg : Nat) : Field.buf (formatC op buf ofs arg) = buf := by
  apply BitVec.eq_of_toNat_eq
  have hop := op.isLt
  have hbuf := buf.isLt
  rw [Field.buf, BitVec.extractLsb'_toNat, toNat_formatC, Nat.shiftRight_eq_div_pow]
  omega

theorem toNat_field_ofs_formatC (hofs : ofsFits ofs) (arg : Nat) :
    (Field.ofs (formatC op buf ofs arg)).toNat = ofs := by
  have hop := op.isLt
  have hbuf := buf.isLt
  rw [Field.ofs, BitVec.extractLsb'_toNat, toNat_formatC, Nat.shiftRight_eq_div_pow]
  omega

theorem toNat_field_arg_formatC (ofs : Nat) (harg : argFits arg) :
    (Field.arg (formatC op buf ofs arg)).toNat = arg := by
  have hop := op.isLt
  have hbuf := buf.isLt
  rw [Field.arg, BitVec.extractLsb'_toNat, toNat_formatC, Nat.shiftRight_eq_div_pow]
  omega

theorem field_ofs_formatC_zero (arg : Nat) : Field.ofs (formatC op buf 0 arg) = 0 :=
  BitVec.eq_of_toNat_eq (toNat_field_ofs_formatC op buf (by decide) arg)

theorem field_arg_formatC_zero (ofs : Nat) : Field.arg (formatC op buf ofs 0) = 0 :=
  BitVec.eq_of_toNat_eq (toNat_field_arg_formatC op buf ofs (by decide))

/-- A word whose `z` is zero is the word of its other four fields. -/
theorem formatC_of_fields {w : Command} (hz : Field.z w = 0) :
    formatC (Field.op w) (Field.buf w) (Field.ofs w).toNat (Field.arg w).toNat = w := by
  rw [formatC, BitVec.ofNat_toNat, BitVec.ofNat_toNat, BitVec.setWidth_eq, BitVec.setWidth_eq, ← hz, append_fields]

end FormatC

theorem Buf.ofBit_bit (b : Buf) : Buf.ofBit b.bit = b := by cases b <;> rfl

theorem Buf.bit_ofBit : ∀ b : BitVec 1, (Buf.ofBit b).bit = b := by decide

/-! ### What a command takes of the fields (R82) -/

/-- The three ways to use the fields `buf`, `ofs` and `arg`, with the command that their values make. -/
inductive OperandForm where
  /-- a GET: `arg` unused -/
  | get (mk : Buf → Nat → Instr)
  /-- GETTEXT and the SETs: all used -/
  | full (mk : Buf → Nat → Nat → Instr)
  /-- none used -/
  | plain (i : Instr)

namespace OperandForm

/-- The command with these values of the fields. -/
def build : OperandForm → Buf → Nat → Nat → Instr
  | .get mk, buf, ofs, _ => mk buf ofs
  | .full mk, buf, ofs, arg => mk buf ofs arg
  | .plain i, _, _, _ => i

/-- The word with these values in the used fields. -/
def word (op : Byte) : OperandForm → Buf → Nat → Nat → Command
  | .get _, buf, ofs, _ => formatC op buf.bit ofs 0
  | .full _, buf, ofs, arg => formatC op buf.bit ofs arg
  | .plain _, _, _, _ => formatC op 0 0 0

/-- The values fit the used fields. -/
def ValuesFit : OperandForm → Nat → Nat → Prop
  | .get _, ofs, _ => ofsFits ofs
  | .full _, ofs, arg => ofsFits ofs ∧ argFits arg
  | .plain _, _, _ => True

/-- The command that the fields of a word make. -/
def read (k : OperandForm) (w : Command) : Instr :=
  k.build (Buf.ofBit (Field.buf w)) (Field.ofs w).toNat (Field.arg w).toNat

/-- The unused fields of a word are zero. -/
def UnusedZero : OperandForm → Command → Prop
  | .get _, w => Field.arg w = 0
  | .full _, _ => True
  | .plain _, w => Field.buf w = 0 ∧ Field.ofs w = 0 ∧ Field.arg w = 0

/-- The model's decoder of the operands. -/
def parse : OperandForm → Command → Except Reject Instr
  | .get mk => decodeGet mk
  | .full mk => decodeArg mk
  | .plain i => decodePlain i

/-- The mask of R85. -/
def mask : OperandForm → Command
  | .get _ => 0xFFFFFFFF0000FEFF
  | .full _ => 0x000000000000FEFF
  | .plain _ => 0xFFFFFFFFFFFFFFFF

variable {k : OperandForm} {w : Command} {i : Instr}

theorem parse_eq_ok_iff : k.parse w = .ok i ↔ k.UnusedZero w ∧ k.read w = i := by
  cases k with
  | get mk =>
    rw [parse, decodeGet, UnusedZero, read, build]
    split <;> simp_all
  | full mk => simp [parse, decodeArg, UnusedZero, read, build]
  | plain j =>
    rw [parse, decodePlain, UnusedZero, read, build]
    simp only [ne_eq, ← not_and_or]
    split <;> simp_all

theorem valuesFit_of_fields (k : OperandForm) (w : Command) : k.ValuesFit (Field.ofs w).toNat (Field.arg w).toNat := by
  cases k with
  | get mk => exact (Field.ofs w).isLt
  | full mk => exact ⟨(Field.ofs w).isLt, (Field.arg w).isLt⟩
  | plain i => trivial

/-- The word of the fields read from `w` is `w`. -/
theorem word_of_fields (hz : Field.z w = 0) (hunused : k.UnusedZero w) :
    k.word (Field.op w) (Buf.ofBit (Field.buf w)) (Field.ofs w).toNat (Field.arg w).toNat = w := by
  have hw := formatC_of_fields hz
  cases k with
  | get mk =>
    have harg : Field.arg w = 0 := hunused
    rw [harg] at hw
    rwa [word, Buf.bit_ofBit]
  | full mk => rwa [word, Buf.bit_ofBit]
  | plain i =>
    obtain ⟨hbuf, hofs, harg⟩ := hunused
    rwa [hbuf, hofs, harg] at hw

section Word
variable (k : OperandForm) (op : Byte) (buf : Buf) (ofs arg : Nat)

theorem field_op_word : Field.op (k.word op buf ofs arg) = op := by
  cases k <;> exact field_op_formatC ..

theorem field_z_word : Field.z (k.word op buf ofs arg) = 0 := by
  cases k <;> exact field_z_formatC ..

theorem unusedZero_word : k.UnusedZero (k.word op buf ofs arg) := by
  cases k with
  | get mk => exact field_arg_formatC_zero ..
  | full mk => trivial
  | plain i => exact ⟨field_buf_formatC .., field_ofs_formatC_zero .., field_arg_formatC_zero ..⟩

/-- The fields of the word make the command again. -/
theorem read_word {k : OperandForm} {ofs arg : Nat} (h : k.ValuesFit ofs arg) :
    k.read (k.word op buf ofs arg) = k.build buf ofs arg := by
  cases k with
  | get mk =>
    have hofs : ofsFits ofs := h
    simp only [read, build, word, field_buf_formatC, Buf.ofBit_bit, toNat_field_ofs_formatC _ _ hofs]
  | full mk =>
    obtain ⟨hofs, harg⟩ := h
    simp only [read, build, word, field_buf_formatC, Buf.ofBit_bit, toNat_field_ofs_formatC _ _ hofs,
      toNat_field_arg_formatC _ _ _ harg]
  | plain i => rfl

end Word

/-- A masked word equals a pattern that has nothing but an `op` when it does so field by field. -/
theorem and_eq_formatC_iff (w mask : Command) (op : Byte) :
    w &&& mask = formatC op 0 0 0 ↔
      Field.op w &&& Field.op mask = op ∧ Field.buf w &&& Field.buf mask = 0 ∧ Field.z w &&& Field.z mask = 0 ∧
        Field.ofs w &&& Field.ofs mask = 0 ∧ Field.arg w &&& Field.arg mask = 0 := by
  rw [eq_iff_fields, field_op_formatC, field_buf_formatC, field_z_formatC, field_ofs_formatC_zero,
    field_arg_formatC_zero]
  simp only [Field.op, Field.buf, Field.z, Field.ofs, Field.arg, BitVec.extractLsb'_and]

/-- What the mask keeps: `op`, `z` and the unused fields. -/
theorem and_mask_eq_iff (k : OperandForm) (op : Byte) (w : Command) :
    w &&& k.mask = formatC op 0 0 0 ↔ Field.z w = 0 ∧ Field.op w = op ∧ k.UnusedZero w := by
  have hop : Field.op k.mask = BitVec.allOnes 8 := by cases k <;> rw [mask] <;> decide
  have hz : Field.z k.mask = BitVec.allOnes 7 := by cases k <;> rw [mask] <;> decide
  rw [and_eq_formatC_iff, hop, hz, BitVec.and_allOnes, BitVec.and_allOnes]
  cases k with
  | get mk =>
    have hbuf : Field.buf (mask (.get mk)) = 0#1 := by rw [mask]; decide
    have hofs : Field.ofs (mask (.get mk)) = 0#16 := by rw [mask]; decide
    have harg : Field.arg (mask (.get mk)) = BitVec.allOnes 32 := by rw [mask]; decide
    rw [hbuf, hofs, harg]
    simp only [BitVec.and_allOnes, BitVec.and_zero, UnusedZero]
    tauto
  | full mk =>
    have hbuf : Field.buf (mask (.full mk)) = 0#1 := by rw [mask]; decide
    have hofs : Field.ofs (mask (.full mk)) = 0#16 := by rw [mask]; decide
    have harg : Field.arg (mask (.full mk)) = 0#32 := by rw [mask]; decide
    rw [hbuf, hofs, harg]
    simp only [BitVec.and_zero, UnusedZero]
    tauto
  | plain i =>
    have hbuf : Field.buf (mask (.plain i)) = BitVec.allOnes 1 := by rw [mask]; decide
    have hofs : Field.ofs (mask (.plain i)) = BitVec.allOnes 16 := by rw [mask]; decide
    have harg : Field.arg (mask (.plain i)) = BitVec.allOnes 32 := by rw [mask]; decide
    rw [hbuf, hofs, harg]
    simp only [BitVec.and_allOnes, UnusedZero]
    tauto

end OperandForm

/-! ### The table of the commands (R84) -/

/-- A command's `op`, mnemonic and operands. -/
structure CommandForm where
  op : Byte
  name : String
  operands : OperandForm

/-- The twelve commands, in the order of R85; `encode_build`, `decode_of_form` and `opcodeRows_eq` tie the table to the
model. -/
def commandForms : List CommandForm :=
  [ ⟨0x01, "GETU8", .get .getu8⟩, ⟨0x02, "GETU16", .get .getu16⟩, ⟨0x03, "GETU24", .get .getu24⟩,
    ⟨0x04, "GETTEXT", .full .gettext⟩, ⟨0x11, "SETU8", .full .setu8⟩, ⟨0x12, "SETU16", .full .setu16⟩,
    ⟨0x13, "SETU24", .full .setu24⟩, ⟨0x20, "DEINTERLEAVE", .plain .deinterleave⟩,
    ⟨0x21, "INTERLEAVE", .plain .interleave⟩, ⟨0x30, "CHECKSUM", .plain .checksum⟩, ⟨0x31, "BUILD", .plain .build⟩,
    ⟨0x32, "ANALYZE", .plain .analyze⟩ ]

namespace CommandForm

/-- A word is of the form: `z` is zero, `op` is the form's, and the unused fields are zero (R82). -/
def Fits (f : CommandForm) (w : Command) : Prop := Field.z w = 0 ∧ Field.op w = f.op ∧ f.operands.UnusedZero w

/-- The row of R85. -/
def row (f : CommandForm) : Row := ⟨f.name, f.operands.mask, formatC f.op 0 0 0⟩

theorem row_accepts_iff (f : CommandForm) (w : Command) : f.row.accepts w = true ↔ f.Fits w := by
  rw [Row.accepts, beq_iff_eq]
  exact f.operands.and_mask_eq_iff f.op w

end CommandForm

theorem opcodeRows_eq : opcodeRows = commandForms.map CommandForm.row := by decide

theorem opcodes_nodup : (commandForms.map CommandForm.op).Nodup := by decide

theorem names_nodup : (commandForms.map CommandForm.name).Nodup := by decide

theorem encode_build : ∀ f ∈ commandForms, ∀ buf ofs arg,
    encode (f.operands.build buf ofs arg) = f.operands.word f.op buf ofs arg := by
  simp [commandForms, OperandForm.build, OperandForm.word, encode]

theorem wellFormed_build : ∀ f ∈ commandForms, ∀ buf ofs arg,
    wellFormed (f.operands.build buf ofs arg) = true ↔ f.operands.ValuesFit ofs arg := by
  simp [commandForms, OperandForm.build, OperandForm.ValuesFit, wellFormed]

theorem mnemonic_read : ∀ f ∈ commandForms, ∀ w, mnemonic (f.operands.read w) = f.name := by
  simp [commandForms, OperandForm.read, OperandForm.build, mnemonic]

theorem exists_form (i : Instr) : ∃ f ∈ commandForms, ∃ buf ofs arg, f.operands.build buf ofs arg = i := by
  have : Nonempty Buf := ⟨.log⟩
  cases i <;> simp [commandForms, OperandForm.build]

/-! ### The decoder by the table (R90) -/

section Decode
variable {w : Command} {f : CommandForm}

theorem decode_of_z_ne_zero (hz : Field.z w ≠ 0) : decode w = .error (.nonZeroZ (Field.z w)) := if_pos hz

theorem decode_of_form (hf : f ∈ commandForms) (hz : Field.z w = 0) (hop : Field.op w = f.op) :
    decode w = f.operands.parse w := by
  rw [decode, if_neg (not_not.mpr hz), hop]
  fin_cases hf <;> rfl

theorem decode_of_unlisted_op (hz : Field.z w = 0) (hop : ∀ f ∈ commandForms, Field.op w ≠ f.op) :
    decode w = .error (.unknownOp (Field.op w)) := by
  simp only [commandForms, List.forall_mem_cons] at hop
  simp only [decode, hz, hop, ne_eq, not_true, if_false]

/-- A word decodes to what its fields make in the form that it is of, and to nothing else (R85, R90). -/
theorem decode_eq_ok_iff {i : Instr} : decode w = .ok i ↔ ∃ f ∈ commandForms, f.Fits w ∧ f.operands.read w = i := by
  constructor
  · intro hdec
    have hz : Field.z w = 0 := by
      by_contra hz
      rw [decode_of_z_ne_zero hz] at hdec
      cases hdec
    obtain ⟨f, hf, hop⟩ : ∃ f ∈ commandForms, Field.op w = f.op := by
      by_contra! hop
      rw [decode_of_unlisted_op hz hop] at hdec
      cases hdec
    rw [decode_of_form hf hz hop] at hdec
    obtain ⟨hunused, hread⟩ := OperandForm.parse_eq_ok_iff.mp hdec
    exact ⟨f, hf, ⟨hz, hop, hunused⟩, hread⟩
  · rintro ⟨f, hf, ⟨hz, hop, hunused⟩, hread⟩
    rw [decode_of_form hf hz hop]
    exact OperandForm.parse_eq_ok_iff.mpr ⟨hunused, hread⟩

theorem exists_decode_iff : (∃ i, decode w = .ok i) ↔ ∃ f ∈ commandForms, f.Fits w := by
  simp only [decode_eq_ok_iff]
  exact ⟨fun ⟨_, f, hf, hfits, _⟩ => ⟨f, hf, hfits⟩, fun ⟨f, hf, hfits⟩ => ⟨_, f, hf, hfits, rfl⟩⟩

theorem form_eq_of_op_eq {g : CommandForm} (hf : f ∈ commandForms) (hg : g ∈ commandForms) (h : f.op = g.op) : f = g :=
  List.inj_on_of_nodup_map opcodes_nodup hf hg h

theorem form_eq_of_name_eq {g : CommandForm} (hf : f ∈ commandForms) (hg : g ∈ commandForms) (h : f.name = g.name) :
    f = g :=
  List.inj_on_of_nodup_map names_nodup hf hg h

end Decode

/-- Settles O1: the word has the form's `op`, zeros where the form uses nothing, and the operands where it reads them. -/
theorem decodeEncodeAllCommands : Obligations.DecodeEncodeAllCommands := by
  intro i hwf
  obtain ⟨f, hf, buf, ofs, arg, rfl⟩ := exists_form i
  have hfit := (wellFormed_build f hf buf ofs arg).mp hwf
  rw [encode_build f hf]
  have hfits : f.Fits (f.operands.word f.op buf ofs arg) :=
    ⟨OperandForm.field_z_word .., OperandForm.field_op_word .., OperandForm.unusedZero_word ..⟩
  exact decode_eq_ok_iff.mpr ⟨f, hf, hfits, OperandForm.read_word _ _ hfit⟩

/-- Settles O2: the word that the fields make again has every bit of the given one, the unused ones being zero. -/
theorem decodedWordIsTheEncoding : Obligations.DecodedWordIsTheEncoding := by
  intro w i hdec
  obtain ⟨f, hf, ⟨hz, hop, hunused⟩, rfl⟩ := decode_eq_ok_iff.mp hdec
  refine ⟨(wellFormed_build f hf _ _ _).mpr (OperandForm.valuesFit_of_fields _ w), ?_⟩
  rw [OperandForm.read, encode_build f hf, ← hop]
  exact OperandForm.word_of_fields hz hunused

/-! ### The mask and match rows (R85) -/

theorem forall_mem_opcodeRows {p : Row → Prop} : (∀ r ∈ opcodeRows, p r) ↔ ∀ f ∈ commandForms, p f.row := by
  rw [opcodeRows_eq, List.forall_mem_map]

theorem row_accepts_iff_decode {f : CommandForm} (hf : f ∈ commandForms) (w : Command) :
    f.row.accepts w = true ↔ ∃ i, decode w = .ok i ∧ mnemonic i = f.name := by
  rw [f.row_accepts_iff]
  constructor
  · exact fun hfits => ⟨_, decode_eq_ok_iff.mpr ⟨f, hf, hfits, rfl⟩, mnemonic_read f hf w⟩
  · rintro ⟨i, hdec, hname⟩
    obtain ⟨g, hg, hfits, rfl⟩ := decode_eq_ok_iff.mp hdec
    rw [mnemonic_read g hg] at hname
    rwa [← form_eq_of_name_eq hg hf hname]

/-- Settles O3: a row accepts the words of its form, and two forms with one `op` are one. -/
theorem maskTableDecidesTheCommand : Obligations.MaskTableDecidesTheCommand := by
  refine ⟨fun w => forall_mem_opcodeRows.mpr fun f hf => row_accepts_iff_decode hf w, fun w => ?_⟩
  simp only [forall_mem_opcodeRows, CommandForm.row_accepts_iff]
  intro f hf g hg ⟨_, hfop, _⟩ ⟨_, hgop, _⟩
  rw [form_eq_of_op_eq hf hg (hfop.symm.trans hgop)]

/-! ### The illegal words (R86, R215) -/

theorem no_row_accepts_iff (w : Command) :
    (∀ r ∈ opcodeRows, r.accepts w = false) ↔ ∀ f ∈ commandForms, ¬f.Fits w := by
  simp only [forall_mem_opcodeRows, ← CommandForm.row_accepts_iff, Bool.not_eq_true]

/-- Which opcodes leave which field unused (R82). -/
theorem exists_used_field_iff (w : Command) :
    (∃ f ∈ commandForms, Field.op w = f.op ∧ ¬f.operands.UnusedZero w) ↔
      (Field.op w ∈ ([0x01, 0x02, 0x03] : List Byte) ∧ Field.arg w ≠ 0) ∨
        (Field.op w ∈ ([0x20, 0x21, 0x30, 0x31, 0x32] : List Byte) ∧
          (Field.buf w ≠ 0 ∨ Field.ofs w ≠ 0 ∨ Field.arg w ≠ 0)) := by
  simp only [commandForms, List.exists_mem_cons_iff, OperandForm.UnusedZero]
  simp only [List.mem_cons, or_and_right, or_assoc, not_and_or, List.not_mem_nil, not_true, and_false, false_and,
    exists_false, false_or, or_false, ne_eq]

theorem op_unlisted_iff (w : Command) : (∀ f ∈ commandForms, Field.op w ≠ f.op) ↔
    Field.op w ∉ ([0x01, 0x02, 0x03, 0x04, 0x11, 0x12, 0x13, 0x20, 0x21, 0x30, 0x31, 0x32] : List Byte) :=
  (List.forall_mem_map (l := commandForms) (f := CommandForm.op)).symm.trans List.forall_mem_ne

/-- A word outside the table has a set `z`, an unlisted opcode, or a field of its form set that the form does not use. -/
theorem forall_not_fits_iff (w : Command) : (∀ f ∈ commandForms, ¬f.Fits w) ↔
    Field.z w ≠ 0 ∨ (∀ f ∈ commandForms, Field.op w ≠ f.op) ∨
      ∃ f ∈ commandForms, Field.op w = f.op ∧ ¬f.operands.UnusedZero w := by
  constructor
  · intro hnone
    by_contra! ⟨hz, ⟨f, hf, hop⟩, hused⟩
    exact hnone f hf ⟨hz, hop, hused f hf hop⟩
  · rintro hbad f hf ⟨hz, hop, hunused⟩
    rcases hbad with hz' | hunlisted | ⟨g, hg, hgop, hused⟩
    · exact hz' hz
    · exact hunlisted f hf hop
    · rw [form_eq_of_op_eq hg hf (hgop.symm.trans hop)] at hused
      exact hused hunused

namespace Machine

/-- A word that is no command raises IllegalCommand (R215). -/
theorem step_issue_illegal {s : State} {w : Command} {rest : List HostAction} (hrun : s.running)
    (hin : s.inbox = .issue w :: rest) (hw : ¬∃ i, decode w = .ok i) :
    step s = .next ((s.accept rest).faultEntry .illegalCommand (w.setWidth 32)) := by
  have hacc : (s.accept rest).fault = 0 := hrun
  rw [step_of_inbox_cons hin, hostAct, hostIssue, ifRunning_running _ hacc]
  cases hdec : decode w with
  | ok i => exact absurd ⟨i, hdec⟩ hw
  | error r => rfl

end Machine

/-- Settles O4: a word that fits no form has no decoding, and the three ways not to fit are read off the table. -/
theorem illegalWordRaisesIllegalCommand : Obligations.IllegalWordRaisesIllegalCommand := by
  refine ⟨fun w => ?_, fun w => ?_, fun s w rest hrun hin hnone => ?_⟩
  · rw [no_row_accepts_iff, exists_decode_iff]
    push Not
    rfl
  · rw [no_row_accepts_iff, forall_not_fits_iff, op_unlisted_iff, exists_used_field_iff]
  · rw [no_row_accepts_iff] at hnone
    refine Machine.step_issue_illegal hrun hin fun hdec => ?_
    obtain ⟨f, hf, hfits⟩ := exists_decode_iff.mp hdec
    exact hnone f hf hfits

/-! ### Written words (R94, V1) -/

/-- Settles O5: each command decodes from its word by the round trip of O1, and the illegal words by evaluation. -/
theorem writtenWordsDecode : Obligations.WrittenWordsDecode := by
  refine ⟨decodeEncodeAllCommands (.getu8 .phys 0x1FF) rfl, decodeEncodeAllCommands (.getu16 .log 0) rfl,
    decodeEncodeAllCommands (.getu24 .log 5) rfl, decodeEncodeAllCommands (.gettext .log 0x106 10) rfl,
    decodeEncodeAllCommands (.setu8 .log 0x0E 0) rfl, decodeEncodeAllCommands (.setu16 .log 2 0xD676) rfl,
    decodeEncodeAllCommands (.setu24 .log 0x130 0x02FFFF) rfl, decodeEncodeAllCommands .deinterleave rfl,
    decodeEncodeAllCommands .interleave rfl, decodeEncodeAllCommands .checksum rfl,
    decodeEncodeAllCommands .build rfl, decodeEncodeAllCommands .analyze rfl, ?_⟩
  decide

/-! ### The bytes of a word (R89) -/

theorem commandOfBytes_bytesOfCommand (w : Command) : commandOfBytes (bytesOfCommand w) = some w := by
  have hbytes : bytesOfCommand w = [w.extractLsb' 0 8, w.extractLsb' 8 8, w.extractLsb' 16 8, w.extractLsb' 24 8,
    w.extractLsb' 32 8, w.extractLsb' 40 8, w.extractLsb' 48 8, w.extractLsb' 56 8] := rfl
  rw [hbytes, commandOfBytes]
  iterate 7 rw [BitVec.extractLsb'_append_extractLsb'_eq_extractLsb' (by rfl)]
  exact congrArg some BitVec.extractLsb'_eq_self

theorem length_bytesOfCommand (w : Command) : (bytesOfCommand w).length = 8 := by simp [bytesOfCommand]

theorem getD_bytesOfCommand (w : Command) {k : Nat} (hk : k < 8) :
    (bytesOfCommand w).getD k 0 = BitVec.ofNat 8 (w.toNat / 256 ^ k) := by
  have hpow : 2 ^ (8 * k) = 256 ^ k := Nat.pow_mul 2 8 k
  rw [bytesOfCommand, List.getD_eq_getElem _ _ (by simpa using hk), List.getElem_map, List.getElem_range,
    BitVec.extractLsb', Nat.shiftRight_eq_div_pow, hpow]

/-- Settles O6: the eight bytes put side by side are the word, so decoding the bytes is decoding the word. -/
theorem listedBytesSpellTheWord : Obligations.ListedBytesSpellTheWord := by
  refine ⟨fun w => ⟨length_bytesOfCommand w, commandOfBytes_bytesOfCommand w, ?_, fun k hk => getD_bytesOfCommand w hk⟩,
    by decide⟩
  rw [decodeBytes, commandOfBytes_bytesOfCommand]

end Sys2Proof
end

section
/-! PROOFS. The byte codec (40_bytecodec.md): text character by character (O24, O28), accesses out of range (O26), and the
truncation law of SET and GET (O27). -/

namespace Sys2Proof.Machine

/-! ### The check, for each kind of access -/

section Checks
variable {s : State} {n ofs : Nat} {buf : Buf}

theorem execGettext_in (h : ofs + n ≤ s.par.bufLen) :
    execGettext buf ofs n s = .next (s.withText (getText s.par (s.buffer buf) ofs n)) := checked_in _ h

theorem execGettext_out (h : s.par.bufLen < ofs + n) :
    execGettext buf ofs n s = .next (s.faultEntry .outOfRange (BitVec.ofNat 32 ofs)) := checked_out _ h

theorem getField_out (h : s.par.bufLen < ofs + n) :
    getField n buf ofs s = .next (s.faultEntry .outOfRange (BitVec.ofNat 32 ofs)) := checked_out _ h

theorem setField_out {v : Nat} (h : s.par.bufLen < ofs + n) :
    setField n buf ofs v s = .next (s.faultEntry .outOfRange (BitVec.ofNat 32 ofs)) := checked_out _ h

end Checks

/-! ### Text, character by character -/

/-- Each character is made from one byte alone (R114). -/
theorem getText_eq_map_range (p : Params) (m : Mem) (ofs len : Nat) :
    getText p m ofs len = (List.range len).map fun k => sanitize p (m.read (ofs + k)) := by
  rw [getText, Mem.bytesAt, List.map_map]
  rfl

theorem getD_getText (p : Params) (m : Mem) (ofs : Nat) {len k : Nat} (hk : k < len) :
    (getText p m ofs len).getD k 0 = sanitize p (m.read (ofs + k)) := by
  rw [getText_eq_map_range, List.getD_eq_getElem _ _ (by simpa using hk), List.getElem_map, List.getElem_range]

theorem getText_one (p : Params) (m : Mem) (ofs : Nat) : getText p m ofs 1 = [sanitize p (m.read ofs)] := by
  rw [getText, Mem.bytesAt_succ, Mem.bytesAt_zero, List.map_singleton]

/-- The test of R105 on a byte's low seven bits, over naturals. -/
theorem printable_setWidth_iff (p : Params) (b : Byte) :
    printable p (b.setWidth 7) = true ↔ p.printLo.toNat ≤ b.toNat % 128 ∧ b.toNat % 128 ≤ p.printHi.toNat := by
  rw [printable, Bool.and_eq_true, decide_eq_true_iff, decide_eq_true_iff, BitVec.le_def, BitVec.le_def,
    BitVec.toNat_setWidth]

theorem sanitize_of_printable {p : Params} {b : Byte} (h : printable p (b.setWidth 7) = true) :
    sanitize p b = b.setWidth 7 := if_pos h

/-- R104 over naturals. -/
theorem sanitize_eq_ite (p : Params) (b : Byte) :
    sanitize p b = if p.printLo.toNat ≤ b.toNat % 128 ∧ b.toNat % 128 ≤ p.printHi.toNat then
      BitVec.ofNat 7 b.toNat else p.textPlaceholder := by
  simp only [sanitize, printable_setWidth_iff, BitVec.ofNat_toNat]

/-- Printable bytes lose their high bit and nothing else (R114). -/
theorem getText_of_printable {p : Params} {m : Mem} {ofs len : Nat}
    (h : ∀ k, k < len → printable p ((m.read (ofs + k)).setWidth 7) = true) :
    getText p m ofs len = (List.range len).map fun k => (m.read (ofs + k)).setWidth 7 := by
  rw [getText_eq_map_range]
  exact List.map_congr_left fun k hk => sanitize_of_printable (h k (List.mem_range.mp hk))

/-- Bits 0 to 6 come through the truncation and bit 7 is set again. -/
theorem setWidth_or_high_bit {b : Byte} (h : b.getLsbD 7 = true) : (b.setWidth 7).setWidth 8 ||| 0x80 = b := by
  have hhigh : (0x80 : Byte) = BitVec.twoPow 8 7 := rfl
  ext i hi
  rw [hhigh, BitVec.getElem_or, BitVec.getElem_setWidth, BitVec.getLsbD_setWidth, BitVec.getElem_twoPow,
    BitVec.getLsbD_eq_getElem hi]
  rcases Nat.lt_succ_iff_lt_or_eq.mp hi with hlow | rfl
  · simp [hlow, Nat.ne_of_lt hlow]
  · simpa [BitVec.getLsbD_eq_getElem] using h.symm

theorem sameBytes_withText (s : State) (t : List Char7) : sameBytes s (s.withText t) := fun b _ => by cases b <;> rfl

/-- The length of a text within the buffer fits TXT_LEN, so the truncation of `withText` loses nothing. -/
theorem withText_txtLen_toNat (s : State) {t : List Char7} (hwf : s.par.wf) (ht : t.length ≤ s.par.bufLen) :
    (s.withText t).txtLen.toNat = t.length := by
  obtain ⟨_, hbuf, _, _⟩ := hwf
  rw [State.withText_txtLen, BitVec.toNat_ofNat, Nat.mod_eq_of_lt (by omega)]

/-- Settles O24: the in-range branch of the check, and each character from its byte. -/
theorem getTextSanitises : Obligations.GetTextSanitises := by
  intro s buf ofs len _ hwf h
  refine ⟨s.withText (getText s.par (s.buffer buf) ofs len), execGettext_in h, rfl, sameBytes_withText s _, ?_,
    ?_, fun k hk => ?_⟩
  · rw [State.withText_txt, length_getText]
  · rw [withText_txtLen_toNat s hwf (by rw [length_getText]; omega), length_getText]
  · rw [State.withText_txt, getD_getText _ _ _ hk, sanitize_eq_ite]

/-- Settles O28: both sides of each equation are lists over the offsets, equal character by character. -/
theorem textIsBytewise : Obligations.TextIsBytewise := by
  refine fun p m ofs len => ⟨?concat, getText_of_printable, fun h => ?restore⟩
  case concat =>
    simp only [getText_one]
    rw [getText_eq_map_range, List.map_eq_flatMap]
  case restore =>
    rw [getText_of_printable fun k hk => (h k hk).1, List.map_map]
    exact List.map_congr_left fun k hk => setWidth_or_high_bit (h k (List.mem_range.mp hk)).2

/-! ### Accesses out of range -/

/-- Settles O26: every command of the family is a GET, a SET or GETTEXT, and each of these takes fault entry alone. -/
theorem outOfRangeChangesOnlyTheFault : Obligations.OutOfRangeChangesOnlyTheFault := by
  intro s buf ofs value _
  exact ⟨fun h => ⟨getField_out h, setField_out h⟩, fun h => ⟨getField_out h, setField_out h⟩,
    fun h => ⟨getField_out h, setField_out h⟩, execGettext_out⟩

/-! ### The truncation law -/

@[simp] theorem State.withBuffer_par (s : State) (b : Buf) (m : Mem) : (s.withBuffer b m).par = s.par := by cases b <;> rfl

/-- A SET in range and then the GET of its width at its offset give the value modulo the width, for any width that fits
RES (R112). -/
theorem setField_getField {s : State} {n ofs : Nat} (hn : n ≤ 4) (buf : Buf) (v : Nat) (h : ofs + n ≤ s.par.bufLen) :
    ∃ t u, setField n buf ofs v s = .next t ∧ getField n buf ofs t = .next u ∧ u.res.toNat = v % 256 ^ n := by
  have hset : ofs + n ≤ (s.withBuffer buf (memWrite (s.buffer buf) ofs n v)).par.bufLen := by rwa [State.withBuffer_par]
  obtain ⟨u, hget, _, _, hres⟩ := getField_reads hn buf hset
  rw [State.buffer_withBuffer, memRead_memWrite_same] at hres
  exact ⟨_, u, setField_in h, hget, hres⟩

/-- Settles O27: the general law at the widths 1, 2 and 3. -/
theorem setThenGetTruncates : Obligations.SetThenGetTruncates :=
  fun _ buf _ v _ => ⟨setField_getField (by decide) buf v, setField_getField (by decide) buf v,
    setField_getField (by decide) buf v⟩

end Sys2Proof.Machine
end

section
/-! PROOFS. The interleave transform (41_interleave.md): the unit map and the byte map (O33), the bytes that each command
moves (O29, O30, O32), the padding check (O31), and the eighth power of the permutation (O34). -/

namespace Sys2Proof.Machine

/-! ### The byte map and its inverse (R122) -/

theorem logicalOf_unit (u : Nat) : logicalOf (2 * u) = unitOfs u := by unfold logicalOf unitOfs; omega

theorem logicalOf_unit_succ (u : Nat) : logicalOf (2 * u + 1) = unitOfs u + 1 := by unfold logicalOf unitOfs; omega

theorem logicalOf_lt {p : Nat} (h : p < 512) : logicalOf p < 512 := by unfold logicalOf; omega

theorem physicalOf_lt {l : Nat} (h : l < 512) : physicalOf l < 512 := by unfold physicalOf; omega

section AddressFields
variable {n r b : Nat}

/-- L takes the three parts of a physical address to their places in the logical one (R122). -/
theorem logicalOf_fields (hr : r < 2) (hb : b < 2) : logicalOf (4 * n + 2 * r + b) = 2 * n + 256 * r + b := by
  unfold logicalOf; omega

/-- P takes the same parts of a logical address back. -/
theorem physicalOf_fields (hn : n < 128) (hb : b < 2) :
    physicalOf (2 * n + 256 * r + b) = 4 * n + 2 * r + b := by
  unfold physicalOf; omega

theorem exists_physical_fields {p : Nat} (h : p < 512) :
    ∃ n r b, n < 128 ∧ r < 2 ∧ b < 2 ∧ p = 4 * n + 2 * r + b :=
  ⟨p / 4, p % 4 / 2, p % 2, by omega, by omega, by omega, by omega⟩

theorem exists_logical_fields {l : Nat} (h : l < 512) :
    ∃ n r b, n < 128 ∧ r < 2 ∧ b < 2 ∧ l = 2 * n + 256 * r + b :=
  ⟨l % 256 / 2, l / 256, l % 2, by omega, by omega, by omega, by omega⟩

end AddressFields

theorem physicalOf_logicalOf {p : Nat} (h : p < 512) : physicalOf (logicalOf p) = p := by
  obtain ⟨n, r, b, hn, hr, hb, rfl⟩ := exists_physical_fields h
  rw [logicalOf_fields hr hb, physicalOf_fields hn hb]

theorem logicalOf_physicalOf {l : Nat} (h : l < 512) : logicalOf (physicalOf l) = l := by
  obtain ⟨n, r, b, hn, hr, hb, rfl⟩ := exists_logical_fields h
  rw [physicalOf_fields hn hb, logicalOf_fields hr hb]

theorem unitOfs_injOn {u v : Nat} (hu : u < 256) (hv : v < 256) (h : unitOfs u = unitOfs v) : u = v := by
  rw [← logicalOf_unit, ← logicalOf_unit] at h
  have hbytes := congrArg physicalOf h
  rw [physicalOf_logicalOf (by omega), physicalOf_logicalOf (by omega)] at hbytes
  omega

/-- The unit that lands on an even offset is the one that holds the byte `P` finds there. -/
theorem unitOfs_physicalOf {j : Nat} (h : j < 512) (heven : j % 2 = 0) : unitOfs (physicalOf j / 2) = j := by
  have hp : 2 * (physicalOf j / 2) = physicalOf j := by unfold physicalOf; omega
  rw [← logicalOf_unit, hp, logicalOf_physicalOf h]

theorem unitOfs_range {u : Nat} (h : u < 256) : unitOfs u < 511 ∧ unitOfs u % 2 = 0 := by unfold unitOfs; omega

/-- Settles O33: both statements about J are those about L on the even offsets. -/
theorem transformMapsAreBijections : Obligations.TransformMapsAreBijections := by
  refine ⟨fun _ _ => unitOfs_injOn, fun j hj heven => ?_, fun _ => unitOfs_range,
    fun _ hp => ⟨logicalOf_lt hp, physicalOf_logicalOf hp⟩, fun _ hl => ⟨physicalOf_lt hl, logicalOf_physicalOf hl⟩⟩
  have hlt : physicalOf j < 512 := physicalOf_lt (by omega)
  exact ⟨physicalOf j / 2, by omega, unitOfs_physicalOf (by omega) heven⟩

/-! ### The buffer that a transform writes, byte by byte (R124, R125) -/

section Bytes
variable (dst src : Mem) {a p : Nat}

theorem read_splice_deinterleaved (h : a < 512) :
    (dst.splice 0 (deinterleaved src)).read a = src.read (physicalOf a) := by
  rw [Mem.read_splice_of_mem _ _ (Nat.zero_le a) (by simpa using h), Nat.sub_zero, getD_deinterleaved _ h]

/-- `LOG[L(p)] <- PHYS[p]` (R124). -/
theorem read_splice_deinterleaved_logicalOf (h : p < 512) :
    (dst.splice 0 (deinterleaved src)).read (logicalOf p) = src.read p := by
  rw [read_splice_deinterleaved _ _ (logicalOf_lt h), physicalOf_logicalOf h]

/-- `PHYS[p] <- LOG[L(p)]` (R125). -/
theorem read_splice_interleaved (h : p < 512) :
    (dst.splice 0 (interleaved src)).read p = src.read (logicalOf p) := by
  rw [Mem.read_splice_of_mem _ _ (Nat.zero_le p) (by simpa using h), Nat.sub_zero, getD_interleaved _ h]

theorem read_splice_deinterleaved_of_ge (h : 512 ≤ a) : (dst.splice 0 (deinterleaved src)).read a = dst.read a :=
  Mem.read_splice_of_ge _ _ (by simpa using h)

theorem read_splice_interleaved_of_ge (h : 512 ≤ a) : (dst.splice 0 (interleaved src)).read a = dst.read a :=
  Mem.read_splice_of_ge _ _ (by simpa using h)

end Bytes

/-! ### The two outcomes of each command -/

section Outcomes
variable {s : State} {info : Reg32}

theorem paddingFault_of_clean {src dst : Mem} (hsrc : cleanPadding s src) (hdst : cleanPadding s dst) :
    paddingFault src dst s.par.bufLen = none :=
  (paddingFault_eq_none ..).mpr ⟨(cleanPadding_iff s src).mp hsrc, (cleanPadding_iff s dst).mp hdst⟩

theorem exec_deinterleave_clean (hphys : cleanPadding s s.phys) (hlog : cleanPadding s s.log) :
    exec .deinterleave s = .next (s.withLog (s.log.splice 0 (deinterleaved s.phys))) := by
  unfold exec execDeinterleave
  rw [paddingFault_of_clean hphys hlog]

theorem exec_interleave_clean (hphys : cleanPadding s s.phys) (hlog : cleanPadding s s.log) :
    exec .interleave s = .next (s.withPhys (s.phys.splice 0 (interleaved s.log))) := by
  unfold exec execInterleave
  rw [paddingFault_of_clean hlog hphys]

theorem exec_deinterleave_dirty (h : paddingFault s.phys s.log s.par.bufLen = some info) :
    exec .deinterleave s = .next (s.faultEntry .paddingNonZero info) := by
  unfold exec execDeinterleave
  rw [h]

theorem exec_interleave_dirty (h : paddingFault s.log s.phys s.par.bufLen = some info) :
    exec .interleave s = .next (s.faultEntry .paddingNonZero info) := by
  unfold exec execInterleave
  rw [h]

end Outcomes

/-- A sector and a block that agree under L byte by byte agree under J unit by unit (R120, R121). -/
theorem units_of_bytes {phys log : Mem} (h : ∀ p, p < 512 → log.read (logicalOf p) = phys.read p) {u : Nat}
    (hu : u < 256) : log.read (unitOfs u) = phys.read (2 * u) ∧ log.read (unitOfs u + 1) = phys.read (2 * u + 1) := by
  rw [← h (2 * u) (by omega), ← h (2 * u + 1) (by omega), logicalOf_unit, logicalOf_unit_succ]
  exact ⟨rfl, rfl⟩

/-- Settles O29: `LOG[L(p)] <- PHYS[p]`, read unit by unit. -/
theorem deinterleaveMovesTheUnits : Obligations.DeinterleaveMovesTheUnits := fun s _ hphys hlog =>
  ⟨_, exec_deinterleave_clean hphys hlog, rfl,
    fun _ => units_of_bytes fun _ => read_splice_deinterleaved_logicalOf s.log s.phys,
    fun _ => read_splice_deinterleaved_of_ge s.log s.phys, fun _ => rfl⟩

/-- Settles O30: `PHYS[p] <- LOG[L(p)]`, read unit by unit. -/
theorem interleaveMovesTheUnits : Obligations.InterleaveMovesTheUnits := by
  refine fun s _ hphys hlog => ⟨_, exec_interleave_clean hphys hlog, rfl, fun u hu => ?_,
    fun _ => read_splice_interleaved_of_ge s.phys s.log, fun _ => rfl⟩
  obtain ⟨hlow, hhigh⟩ := units_of_bytes (fun _ hp => (read_splice_interleaved s.phys s.log hp).symm) hu
  exact ⟨hlow.symm, hhigh.symm⟩

/-! ### Dirty padding (R123) -/

section Padding
variable {s : State} {src dst : Mem} {k : Nat}

theorem paddingFault_of_dirty_src (h : firstDirty s src k) :
    paddingFault src dst s.par.bufLen = some (BitVec.ofNat 32 k) := by
  unfold paddingFault
  rw [(firstDirty_iff s src k).mp h]

/-- An offset below BUF_LEN fits 16 bits, so setting bit 16 beside it adds 65536. -/
theorem paddingFault_of_dirty_dst (hwf : s.par.wf) (hsrc : cleanPadding s src) (hdst : firstDirty s dst k) :
    paddingFault src dst s.par.bufLen = some (BitVec.ofNat 32 (65536 + k)) := by
  have ⟨⟨_, hk⟩, _⟩ := hdst
  obtain ⟨_, hbuf, _⟩ := hwf
  have hor : 0x10000 ||| k = 65536 + k := (Nat.two_pow_add_eq_or_of_lt (i := 16) (by omega) 1).symm
  unfold paddingFault
  rw [(cleanPadding_iff s src).mp hsrc, (firstDirty_iff s dst k).mp hdst]
  simp only [Option.map_some, hor]

end Padding

/-- Settles O31: the check finds the source's byte first, and its answer is all that a faulting transform uses. -/
theorem dirtyPaddingFaults : Obligations.DirtyPaddingFaults := fun _ _ _ hwf =>
  ⟨fun hphys => exec_deinterleave_dirty (paddingFault_of_dirty_src hphys),
    fun hphys hlog => exec_deinterleave_dirty (paddingFault_of_dirty_dst hwf hphys hlog),
    fun hlog => exec_interleave_dirty (paddingFault_of_dirty_src hlog),
    fun hlog hphys => exec_interleave_dirty (paddingFault_of_dirty_dst hwf hlog hphys)⟩

/-! ### The round trip (R128) -/

theorem read_interleaved_deinterleaved (phys log : Mem) (a : Nat) :
    (phys.splice 0 (interleaved (log.splice 0 (deinterleaved phys)))).read a = phys.read a := by
  rcases Nat.lt_or_ge a 512 with h | h
  · rw [read_splice_interleaved _ _ h, read_splice_deinterleaved_logicalOf _ _ h]
  · exact read_splice_interleaved_of_ge _ _ h

theorem read_deinterleaved_interleaved (phys log : Mem) (a : Nat) :
    (log.splice 0 (deinterleaved (phys.splice 0 (interleaved log)))).read a = log.read a := by
  rcases Nat.lt_or_ge a 512 with h | h
  · rw [read_splice_deinterleaved _ _ h, read_splice_interleaved _ _ (physicalOf_lt h), logicalOf_physicalOf h]
  · exact read_splice_deinterleaved_of_ge _ _ h

/-- Settles O32: the first command leaves the padding clean for the second, and the two stores undo each other. -/
theorem transformsRoundTrip : Obligations.TransformsRoundTrip := by
  intro s _ hphys hlog
  have hlog' : cleanPadding s (s.log.splice 0 (deinterleaved s.phys)) := fun k hk =>
    (read_splice_deinterleaved_of_ge _ _ hk.1).trans (hlog k hk)
  have hphys' : cleanPadding s (s.phys.splice 0 (interleaved s.log)) := fun k hk =>
    (read_splice_interleaved_of_ge _ _ hk.1).trans (hphys k hk)
  exact ⟨⟨_, _, exec_deinterleave_clean hphys hlog,
      exec_interleave_clean (s := s.withLog _) hphys hlog', read_interleaved_deinterleaved s.phys s.log⟩,
    _, _, exec_interleave_clean hphys hlog,
      exec_deinterleave_clean (s := s.withPhys _) hphys' hlog, read_deinterleaved_interleaved s.phys s.log⟩

/-! ### The powers of the permutation (R129) -/

/-- The rotation of an eight-bit unit number to the right by `k` places: the low `k` bits go to the top. -/
def rotateUnit (k u : Nat) : Nat := u / 2 ^ k + 2 ^ (8 - k) * (u % 2 ^ k)

theorem rotateUnit_zero (u : Nat) : rotateUnit 0 u = u := by simp [rotateUnit, Nat.mod_one]

theorem rotateUnit_eight {u : Nat} (h : u < 256) : rotateUnit 8 u = u := by
  unfold rotateUnit; omega

/-- One place more: the bit that leaves at the bottom, bit `k` of the unit number, comes in at the top. -/
theorem rotateUnit_succ {k : Nat} (hk : k < 8) (u : Nat) : rotateUnit (k + 1) u = rotateUnit 1 (rotateUnit k u) := by
  have hweight : 2 ^ (8 - k) = 2 * 2 ^ (8 - (k + 1)) := by
    rw [← pow_succ', show 8 - (k + 1) + 1 = 8 - k by omega]
  have htop : 2 ^ (8 - (k + 1)) * 2 ^ k = 128 := by rw [← Nat.pow_add, show 8 - (k + 1) + k = 7 by omega]
  calc rotateUnit (k + 1) u
      = u / 2 ^ k / 2 + 2 ^ (8 - (k + 1)) * (u % 2 ^ k) + 128 * (u / 2 ^ k % 2) := by
        rw [rotateUnit, Nat.pow_succ, ← Nat.div_div_eq_div_mul, Nat.mod_mul, Nat.mul_add, ← Nat.mul_assoc, htop,
          Nat.add_assoc]
    _ = rotateUnit 1 (u / 2 ^ k + 2 * (2 ^ (8 - (k + 1)) * (u % 2 ^ k))) := by
        unfold rotateUnit; omega
    _ = rotateUnit 1 (rotateUnit k u) := by rw [← Nat.mul_assoc, ← hweight, ← rotateUnit]

/-- L rotates the unit number by one place and keeps the byte within the unit (R122). -/
theorem logicalOf_eq_rotateUnit (p : Nat) : logicalOf p = 2 * rotateUnit 1 (p / 2) + p % 2 := by
  unfold logicalOf rotateUnit; omega

theorem logicalOf_iterate {k : Nat} (hk : k ≤ 8) (p : Nat) : logicalOf^[k] p = 2 * rotateUnit k (p / 2) + p % 2 := by
  induction k with
  | zero => rw [Function.iterate_zero_apply, rotateUnit_zero]; omega
  | succ k ih =>
    rw [Function.iterate_succ_apply', ih (by omega), logicalOf_eq_rotateUnit,
      show (2 * rotateUnit k (p / 2) + p % 2) / 2 = rotateUnit k (p / 2) by omega, ← rotateUnit_succ (by omega)]
    omega

theorem logicalOf_iterate_eight {p : Nat} (h : p < 512) : logicalOf^[8] p = p := by
  rw [logicalOf_iterate (Nat.le_refl 8), rotateUnit_eight (by omega)]
  omega

/-- Unit 1 comes back to its place after eight rotations and no sooner. -/
theorem rotateUnit_one_ne {k : Nat} (hpos : 0 < k) (hk : k < 8) : rotateUnit k 1 ≠ 1 := by
  have hdiv : 1 / 2 ^ k = 0 := Nat.div_eq_of_lt (Nat.one_lt_two_pow (by omega))
  have hmod : 1 % 2 ^ k = 1 := Nat.mod_eq_of_lt (Nat.one_lt_two_pow (by omega))
  have hweight : 1 < 2 ^ (8 - k) := Nat.one_lt_two_pow (by omega)
  rw [rotateUnit, hdiv, hmod]
  omega

theorem logicalOf_eq_self_iff {p : Nat} (h : p < 512) : logicalOf p = p ↔ p = 0 ∨ p = 1 ∨ p = 510 ∨ p = 511 := by
  obtain ⟨n, r, b, hn, hr, hb, rfl⟩ := exists_physical_fields h
  rw [logicalOf_fields hr hb]
  omega

theorem logicalOf_iterate_lt {p : Nat} (h : p < 512) (k : Nat) : logicalOf^[k] p < 512 :=
  Function.Iterate.rec (· < 512) h (fun _ => logicalOf_lt) k

/-- DEINTERLEAVE with one buffer for both ends: what a pass that is fed the previous result does to it. -/
def deinterleaveInPlace (m : Mem) : Mem := m.splice 0 (deinterleaved m)

/-- After `k` passes the byte that stood at `p` stands at `L` applied `k` times to `p`. -/
theorem read_deinterleaveInPlace_iterate (m : Mem) {p : Nat} (h : p < 512) (k : Nat) :
    (deinterleaveInPlace^[k] m).read (logicalOf^[k] p) = m.read p := by
  induction k with
  | zero => rfl
  | succ k ih =>
    rw [Function.iterate_succ_apply', Function.iterate_succ_apply', deinterleaveInPlace,
      read_splice_deinterleaved_logicalOf _ _ (logicalOf_iterate_lt h k), ih]

theorem read_deinterleaveInPlace_iterate_of_ge (m : Mem) {a : Nat} (h : 512 ≤ a) (k : Nat) :
    (deinterleaveInPlace^[k] m).read a = m.read a := by
  induction k with
  | zero => rfl
  | succ k ih => rw [Function.iterate_succ_apply', deinterleaveInPlace, read_splice_deinterleaved_of_ge _ _ h, ih]

theorem read_deinterleaveInPlace_eight (m : Mem) (a : Nat) : (deinterleaveInPlace^[8] m).read a = m.read a := by
  rcases Nat.lt_or_ge a 512 with h | h
  · simpa only [logicalOf_iterate_eight h] using read_deinterleaveInPlace_iterate m h 8
  · exact read_deinterleaveInPlace_iterate_of_ge m h 8

/-- Settles O34: L is a rotation of eight bits, whose powers `logicalOf_iterate` gives; unit 1 shows that no smaller power
is the identity. -/
theorem transformHasOrderEight : Obligations.TransformHasOrderEight := by
  refine ⟨fun _ => logicalOf_eq_self_iff, fun _ => logicalOf_iterate_eight, fun k hpos hk => ⟨2, by decide, ?_⟩,
    read_deinterleaveInPlace_eight⟩
  have hne := rotateUnit_one_ne hpos hk
  rw [logicalOf_iterate hk.le, show 2 / 2 = 1 by rfl, show 2 % 2 = 0 by rfl]
  omega

end Sys2Proof.Machine
end

section
/-! PROOFS. The checksum (42_checksum.md): it is the two column parities (O35), blind to its own field (O36), zeroes the
full columns when it is stored (O37), and is linear (O38). -/

namespace Sys2Proof.Machine

/-! ### The exclusive or of a list of bytes -/

section XorAt
variable (m : Mem) {l k : List Nat}

theorem xorAt_cons (a : Nat) (l : List Nat) : xorAt m (a :: l) = m.read a ^^^ xorAt m l := rfl

theorem xorAt_perm (h : l.Perm k) : xorAt m l = xorAt m k :=
  h.foldr_eq' (fun _ _ _ _ _ => by ac_rfl) 0

/-- The accumulating loop of R136 computes the exclusive or of the bytes that it visits. -/
theorem foldl_xor_read (l : List Nat) (acc : Byte) :
    l.foldl (fun x a => x ^^^ m.read a) acc = acc ^^^ xorAt m l := by
  induction l generalizing acc with
  | nil => exact BitVec.xor_zero.symm
  | cons a l ih => rw [List.foldl_cons, ih, xorAt_cons, BitVec.xor_assoc]

theorem foldl_xor_read_zero (l : List Nat) : l.foldl (fun x a => x ^^^ m.read a) 0 = xorAt m l :=
  (foldl_xor_read m l 0).trans BitVec.zero_xor

theorem xorAt_xor {x y z : Mem} (h : ∀ a ∈ l, z.read a = x.read a ^^^ y.read a) :
    xorAt z l = xorAt x l ^^^ xorAt y l := by
  induction l with
  | nil => exact BitVec.xor_zero.symm
  | cons a l ih =>
    obtain ⟨ha, hl⟩ := List.forall_mem_cons.mp h
    rw [xorAt_cons, xorAt_cons, xorAt_cons, ha, ih hl]
    ac_rfl

/-- A block that is zero everywhere but at `a`. -/
theorem xorAt_singleton (hl : l.Nodup) (a : Nat) (d : Byte) : xorAt [(a, d)] l = if a ∈ l then d else 0 := by
  induction l with
  | nil => rfl
  | cons b l ih =>
    obtain ⟨hb, hl⟩ := List.nodup_cons.mp hl
    rw [xorAt_cons, ih hl, Mem.read, Mem.read]
    by_cases hba : b = a
    · subst hba
      simp [hb]
    · simp [hba, Ne.symm hba, Mem.unlisted]

end XorAt

/-! ### The columns -/

theorem evenColumn_nodup : evenColumn.Nodup :=
  (List.nodup_range.filter _).map fun u v (h : 2 * u = 2 * v) => by omega

theorem oddColumn_nodup : oddColumn.Nodup := evenColumn_nodup.map (add_left_injective 1)

theorem mem_evenColumn_iff (a : Nat) : a ∈ evenColumn ↔ a < 512 ∧ a % 2 = 0 ∧ a ≠ 2 := by
  simp only [evenColumn, List.mem_map, List.mem_filter, List.mem_range, decide_eq_true_eq]
  constructor
  · rintro ⟨u, ⟨hu, hne⟩, rfl⟩
    omega
  · rintro ⟨hlt, heven, hne⟩
    exact ⟨a / 2, by omega, by omega⟩

theorem mem_oddColumn_iff (a : Nat) : a ∈ oddColumn ↔ a < 512 ∧ a % 2 = 1 ∧ a ≠ 3 := by
  simp only [oddColumn, List.mem_map, mem_evenColumn_iff]
  constructor
  · rintro ⟨u, hu, rfl⟩
    omega
  · rintro ⟨hlt, hodd, hne⟩
    exact ⟨a - 1, by omega, by omega⟩

theorem perm_cons_filter_ne {l : List Nat} (hl : l.Nodup) {a : Nat} (ha : a ∈ l) :
    l.Perm (a :: l.filter (· ≠ a)) := by
  have herase : l.erase a = l.filter (· ≠ a) :=
    (hl.erase_eq_filter a).trans (List.filter_congr fun x _ => Bool.eq_iff_iff.mpr (by simp))
  rw [← herase]
  exact List.perm_cons_erase ha

theorem range_perm : (List.range 256).Perm (1 :: (List.range 256).filter (· ≠ 1)) :=
  perm_cons_filter_ne List.nodup_range (List.mem_range.mpr (by decide))

theorem full_even_perm : ((List.range 256).map (2 * ·)).Perm (2 :: evenColumn) := range_perm.map _

theorem full_odd_perm : ((List.range 256).map (2 * · + 1)).Perm (3 :: oddColumn) := by
  rw [oddColumn, evenColumn, List.map_map]
  exact range_perm.map _

/-! ### The checksum by columns -/

theorem checksumPairs_eq (m : Mem) : checksumPairs m = (xorAt m evenColumn, xorAt m oddColumn) := by
  have hcol : ((List.range 256).map (2 * ·)).filter (· ≠ 2) = evenColumn := by
    rw [List.filter_map, evenColumn]
    congr 2
    funext u
    simp
  rw [checksumPairs, checksumPairs_foldl, hcol, foldl_xor_read_zero, ← foldl_xor_read_zero m oddColumn, oddColumn,
    List.foldl_map]

theorem checksum_eq_append (m : Mem) : checksum m = xorAt m oddColumn ++ xorAt m evenColumn := by
  rw [checksum, checksumPairs_eq]

theorem checksum_toNat (m : Mem) :
    (checksum m).toNat = (xorAt m evenColumn).toNat + 256 * (xorAt m oddColumn).toNat := by
  rw [checksum_eq_append, BitVec.toNat_append, ← Nat.shiftLeft_add_eq_or_of_lt (xorAt m evenColumn).isLt,
    Nat.shiftLeft_eq, Nat.add_comm, Nat.mul_comm]

theorem exec_checksum (s : State) : exec .checksum s = .next (s.withRes (checksum s.log).toNat) := rfl

/-- Settles O35: the two columns side by side, in sixteen bits, which fit RES. -/
theorem checksumIsTwoColumnParities : Obligations.ChecksumIsTwoColumnParities := by
  refine fun s _ => ⟨_, exec_checksum s, rfl, sameBytes_withRes s _, ?_⟩
  have hlt := (checksum s.log).isLt
  rw [State.withRes_res, BitVec.toNat_ofNat, Nat.mod_eq_of_lt (by omega), checksum_toNat]

/-! ### The checksum field -/

theorem checksum_memWrite_field (m : Mem) (v : Nat) : checksum (memWrite m 0x02 2 v) = checksum m :=
  checksum_congr fun _ _ _ _ => read_memWrite_outside m v (by omega)

/-- Settles O36: CHECKSUM leaves LOG alone, and SETU16 writes the two bytes that the checksum does not read. -/
theorem checksumIgnoresItsOwnField : Obligations.ChecksumIgnoresItsOwnField := by
  intro s v _ ⟨hlen, _⟩
  have hset : exec (.setu16 .log 0x02 v) s = .next (s.withLog (memWrite s.log 0x02 2 v)) :=
    setField_in (by omega)
  refine ⟨_, _, _, _, exec_checksum s, exec_checksum _, rfl, hset, exec_checksum _, ?_⟩
  rw [State.withLog_log, checksum_memWrite_field, State.withRes_res, State.withRes_res]

/-- The field of one block holds the checksum of another, or of the same, exactly when its two bytes are the parities. -/
theorem memRead_field_eq_checksum_iff (m b : Mem) : memRead m 0x02 2 = (checksum b).toNat ↔
    m.read 0x02 = xorAt b evenColumn ∧ m.read 0x03 = xorAt b oddColumn := by
  have hlow := (m.read 0x02).isLt
  have heven := (xorAt b evenColumn).isLt
  rw [memRead_two, show 0x02 + 1 = 0x03 by rfl, checksum_toNat, ← BitVec.toNat_inj, ← BitVec.toNat_inj]
  omega

/-- A full column is zero exactly when its byte of the field is the parity of the rest. -/
theorem xorAt_eq_zero_iff_of_perm (m : Mem) {a : Nat} {full column : List Nat} (h : full.Perm (a :: column)) :
    xorAt m full = 0 ↔ m.read a = xorAt m column := by
  rw [xorAt_perm m h, xorAt_cons]
  exact BitVec.xor_eq_zero_iff

theorem stored_checksum_iff_columns_zero (m : Mem) : memRead m 0x02 2 = (checksum m).toNat ↔
    xorAt m ((List.range 256).map (2 * ·)) = 0 ∧ xorAt m ((List.range 256).map (2 * · + 1)) = 0 := by
  rw [memRead_field_eq_checksum_iff, xorAt_eq_zero_iff_of_perm m full_even_perm,
    xorAt_eq_zero_iff_of_perm m full_odd_perm]

theorem memRead_stored_checksum (m : Mem) :
    memRead (memWrite m 0x02 2 (checksum m).toNat) 0x02 2 = (checksum m).toNat :=
  (memRead_memWrite_same m 0x02 2 _).trans (Nat.mod_eq_of_lt (checksum m).isLt)

/-- Settles O37: the block after the store has a matching checksum, for the store does not change it. -/
theorem storedChecksumZeroesTheColumns : Obligations.StoredChecksumZeroesTheColumns := by
  refine ⟨fun m => ?_, stored_checksum_iff_columns_zero⟩
  have hfield := memRead_stored_checksum m
  obtain ⟨hlow, hhigh⟩ := (memRead_field_eq_checksum_iff _ m).mp hfield
  obtain ⟨heven, hodd⟩ := (stored_checksum_iff_columns_zero _).mp
    (hfield.trans (congrArg BitVec.toNat (checksum_memWrite_field m _).symm))
  exact ⟨hlow, hhigh, heven, hodd⟩

/-! ### Linearity (R141) -/

theorem checksum_xor {x y z : Mem} (h : ∀ a, a < 512 → z.read a = x.read a ^^^ y.read a) :
    checksum z = checksum x ^^^ checksum y := by
  have heven : xorAt z evenColumn = xorAt x evenColumn ^^^ xorAt y evenColumn :=
    xorAt_xor fun a ha => h a ((mem_evenColumn_iff a).mp ha).1
  have hodd : xorAt z oddColumn = xorAt x oddColumn ^^^ xorAt y oddColumn :=
    xorAt_xor fun a ha => h a ((mem_oddColumn_iff a).mp ha).1
  rw [checksum_eq_append, checksum_eq_append, checksum_eq_append, heven, hodd, BitVec.xor_append]

theorem checksum_singleton {a : Nat} (hlt : a < 512) (h2 : a ≠ 2) (h3 : a ≠ 3) (d : Byte) :
    checksum [(a, d)] = if a % 2 = 0 then (0 : Byte) ++ d else d ++ (0 : Byte) := by
  have heven : a ∈ evenColumn ↔ a % 2 = 0 := by rw [mem_evenColumn_iff]; omega
  have hodd : a ∈ oddColumn ↔ ¬a % 2 = 0 := by rw [mem_oddColumn_iff]; omega
  rw [checksum_eq_append, xorAt_singleton evenColumn_nodup, xorAt_singleton oddColumn_nodup]
  simp only [heven, hodd, ite_not]
  split <;> rfl

/-- Changing a byte by `d` is adding the block that holds `d` there and nothing else. -/
theorem read_splice_xor (m : Mem) (a : Nat) (d : Byte) (b : Nat) :
    (m.splice a [m.read a ^^^ d]).read b = m.read b ^^^ Mem.read [(a, d)] b := by
  rw [Mem.read, Mem.read]
  by_cases hba : b = a
  · rw [hba, Mem.read_splice_of_mem _ _ (Nat.le_refl a) (by simp), Nat.sub_self, if_pos rfl]
    rfl
  · rw [Mem.read_splice, if_neg (by rw [List.length_singleton]; omega), if_neg hba]
    exact BitVec.xor_zero.symm

/-- Settles O38: (b) is (a) for the block of the one byte. -/
theorem checksumIsLinear : Obligations.ChecksumIsLinear := by
  refine ⟨fun _ _ _ => checksum_xor, fun m a d hlt h2 h3 => ?_⟩
  rw [← checksum_singleton hlt h2 h3 d]
  exact checksum_xor fun b _ => read_splice_xor m a d b

end Sys2Proof.Machine
end

section
/-! PROOFS. BUILD (43_builder.md). A block is laid out as pieces, runs of bytes at fixed offsets that do not overlap; a
built table holds each piece of its header and of its sixteen entries. From that: the header (O39), the entries (O40), the
warning (O41, O42), independence of the buffers (O43), consistency (O44), and a clean analysis (O45). -/

namespace Sys2Proof.Machine

/-! ### Pieces of a block -/

/-- A run of bytes and the offset where it is to stand. -/
structure Piece where
  ofs : Nat
  bytes : List Byte

/-- The piece that `f.put` stores. -/
def FieldSpec.piece (f : FieldSpec) (v : Nat) : Piece := ⟨f.ofs, toLittleEndian f.width v⟩

namespace Piece

/-- The buffer has the piece's bytes where the piece wants them. -/
def StandsIn (p : Piece) (m : Mem) : Prop := m.bytesAt p.ofs p.bytes.length = p.bytes

def Disjoint (p q : Piece) : Prop := p.ofs + p.bytes.length ≤ q.ofs ∨ q.ofs + q.bytes.length ≤ p.ofs

/-- The piece lies in `lo .. hi-1`. -/
def Within (p : Piece) (lo hi : Nat) : Prop := lo ≤ p.ofs ∧ p.ofs + p.bytes.length ≤ hi

end Piece

/-- The buffer after the pieces are stored, in order. -/
def Mem.storeAll (m : Mem) (ps : List Piece) : Mem := ps.foldl (fun m p => m.splice p.ofs p.bytes) m

namespace Piece
variable {p q : Piece} {m m' : Mem}

theorem standsIn_splice_self (p : Piece) (m : Mem) : p.StandsIn (m.splice p.ofs p.bytes) :=
  Mem.bytesAt_splice_same m p.ofs p.bytes

theorem StandsIn.congr (h : p.StandsIn m) (hm : ∀ k, k < p.bytes.length → m'.read (p.ofs + k) = m.read (p.ofs + k)) :
    p.StandsIn m' := (Mem.bytesAt_congr hm).trans h

theorem StandsIn.splice (h : p.StandsIn m) (hd : p.Disjoint q) : p.StandsIn (m.splice q.ofs q.bytes) := by
  refine h.congr fun k hk => ?_
  unfold Disjoint at hd
  rw [Mem.read_splice, if_neg (by omega)]

theorem StandsIn.read (h : p.StandsIn m) {k : Nat} (hk : k < p.bytes.length) :
    m.read (p.ofs + k) = p.bytes.getD k 0 := by
  rw [← Mem.getD_bytesAt m hk, h]

/-- The value read back from a field that was stored is the value modulo the field's width (R41). -/
theorem StandsIn.get {f : FieldSpec} {v : Nat} (h : (f.piece v).StandsIn m) : f.get m = v % 256 ^ f.width := by
  have hbytes : m.bytesAt f.ofs f.width = toLittleEndian f.width v := by
    simpa only [StandsIn, FieldSpec.piece, length_toLittleEndian] using h
  rw [FieldSpec.get, memRead, hbytes, littleEndian_toLittleEndian]

theorem StandsIn.storeAll {ps : List Piece} (h : p.StandsIn m) (hd : ∀ q ∈ ps, p.Disjoint q) :
    p.StandsIn (m.storeAll ps) := by
  induction ps generalizing m with
  | nil => exact h
  | cons q ps ih =>
    obtain ⟨hq, hps⟩ := List.forall_mem_cons.mp hd
    exact ih (h.splice hq) hps

/-- Of pieces that do not overlap, each stands after all are stored. -/
theorem standsIn_storeAll {ps : List Piece} (hd : ps.Pairwise Disjoint) (hp : p ∈ ps) (m : Mem) :
    p.StandsIn (m.storeAll ps) := by
  induction ps generalizing m with
  | nil => cases hp
  | cons q ps ih =>
    obtain ⟨hq, hps⟩ := List.pairwise_cons.mp hd
    rcases List.mem_cons.mp hp with rfl | hp
    · exact (standsIn_splice_self p m).storeAll hq
    · exact ih hps hp _

end Piece

/-! ### The state that BUILD leaves -/

/-- The state after a completed BUILD. -/
def State.built (s : State) : State := (s.withLog (buildTable s)).withViol (buildWarnings s)

section Built
variable (s : State)

theorem State.withLog_withViol (m : Mem) (vs : List Violation) :
    (s.withLog m).withViol vs = { s with log := m, viol := vs, violCount := BitVec.ofNat 8 vs.length } := rfl

theorem exec_build {s : State} (hn : s.cfgNfull ≠ 0) : exec .build s = .next s.built := execBuild_of_count hn

@[simp] theorem State.built_par : s.built.par = s.par := by
  rw [State.built, State.withViol_par, State.withLog_par]
@[simp] theorem State.built_phys : s.built.phys = s.phys := by
  rw [State.built, State.withViol_phys, State.withLog_phys]
@[simp] theorem State.built_log : s.built.log = buildTable s := by
  rw [State.built, State.withViol_log, State.withLog_log]
@[simp] theorem State.built_viol : s.built.viol = buildWarnings s := rfl
@[simp] theorem State.built_violCount : s.built.violCount = BitVec.ofNat 8 (buildWarnings s).length := rfl
@[simp] theorem State.built_fault : s.built.fault = s.fault := by
  rw [State.built, State.withViol_fault, State.withLog_fault]

/-- BUILD writes LOG, VIOL and VIOL_COUNT alone (R145). -/
theorem State.built_frame :
    s.built = { s with log := s.built.log, viol := s.built.viol, violCount := s.built.violCount } := by
  rw [State.built_log, State.built_viol, State.built_violCount]
  exact State.withLog_withViol s _ _

/-- A BUILD that completes leaves that state. -/
theorem eq_built_of_exec_build {s t : State} (h : exec .build s = .next t) : t = s.built := by
  rcases execBuild_cases s with ⟨_, e⟩ | ⟨_, e⟩
  · cases e.symm.trans h
  · cases e.symm.trans h
    rfl

end Built

/-! ### The steps of BUILD as pieces -/

/-- What steps 2 to 5 store (R150 to R153). -/
def headerPieces (s : State) : List Piece :=
  [hdrMagic.piece Config.magic, ⟨hdrRsv08.ofs, [rsvdAt s.par 0x08]⟩,
    ⟨hdrRsv0F.ofs, [rsvdAt s.par 0x0F, rsvdAt s.par 0x10]⟩,
    ⟨hdrRsv15.ofs, (List.range hdrRsv15.width).map fun k => rsvdAt s.par (0x15 + k)⟩,
    hdrDriveType.piece s.cfgDtype.toNat, hdrTotal.piece s.cfgTotal.toNat, hdrCylinders.piece s.cfgCyl.toNat,
    hdrHeads.piece s.cfgHeads.toNat, hdrSectors.piece s.cfgSect.toNat, hdrInterleave.piece s.cfgIlv.toNat,
    hdrBoot.piece Config.bootDefault, ⟨hdrSlots.ofs, List.replicate hdrSlots.width Config.unusedSlot⟩]

/-- What step 6 stores for slot `i` (R156 to R158). -/
def slotPieces (i : Nat) (slot : Slot) : List Piece :=
  [(entStart.inEntry i).piece slot.start, (entSize.inEntry i).piece slot.size,
    ⟨(entFlags.inEntry i).ofs, [builtFlags i slot.size]⟩, ⟨(entName.inEntry i).ofs, slotName i⟩]

theorem buildHeader_eq_storeAll (s : State) (m : Mem) :
    buildHeader s m = (m.splice 0 (List.replicate Config.blockLen 0)).storeAll (headerPieces s) := rfl

theorem writeChecksum_eq_splice (m : Mem) :
    writeChecksum m = m.splice (hdrChecksum.piece (checksum m).toNat).ofs (hdrChecksum.piece (checksum m).toNat).bytes :=
  rfl

theorem writeSlot_eq_storeAll (m : Mem) (i : Nat) (slot : Slot) :
    writeSlot m i slot = m.storeAll (slotPieces i slot) := rfl

/-- The header's pieces overlap neither each other nor the checksum field. -/
theorem headerPieces_disjoint (s : State) (v : Nat) :
    (hdrChecksum.piece v :: headerPieces s).Pairwise Piece.Disjoint := by
  simp [headerPieces, FieldSpec.piece, Piece.Disjoint, hdrMagic, hdrChecksum, hdrDriveType, hdrTotal, hdrRsv08,
    hdrCylinders, hdrHeads, hdrSectors, hdrInterleave, hdrBoot, hdrRsv0F, hdrSlots, hdrRsv15]

theorem headerPieces_within (s : State) : ∀ p ∈ headerPieces s, p.Within 0 0x100 := by
  simp [headerPieces, FieldSpec.piece, Piece.Within, hdrMagic, hdrDriveType, hdrTotal, hdrRsv08,
    hdrCylinders, hdrHeads, hdrSectors, hdrInterleave, hdrBoot, hdrRsv0F, hdrSlots, hdrRsv15]

theorem slotPieces_disjoint (i : Nat) (slot : Slot) : (slotPieces i slot).Pairwise Piece.Disjoint := by
  simp [slotPieces, FieldSpec.piece, FieldSpec.inEntry, Piece.Disjoint, entStart, entSize, entFlags, entName]

theorem slotPieces_within (i : Nat) (slot : Slot) :
    ∀ p ∈ slotPieces i slot, p.Within (entryOfs i) (entryOfs i + 16) := by
  simp [slotPieces, FieldSpec.piece, FieldSpec.inEntry, Piece.Within, length_slotName, entStart, entSize, entFlags,
    entName]

/-- After step 6 each entry holds its slot's pieces: the later slots lie behind it. -/
theorem slotPieces_standIn_writeSlots (m : Mem) (i : Nat) (ts : List Slot) {k : Nat} (hk : k < ts.length) {p : Piece}
    (hp : p ∈ slotPieces (i + k) ts[k]) : p.StandsIn (writeSlots m i ts) := by
  induction ts generalizing m i k with
  | nil => cases hk
  | cons t ts ih =>
    rw [writeSlots]
    cases k with
    | zero =>
      obtain ⟨_, hend⟩ := slotPieces_within i t p hp
      have hstands : p.StandsIn (writeSlot m i t) := by
        rw [writeSlot_eq_storeAll]
        exact Piece.standsIn_storeAll (slotPieces_disjoint i t) hp m
      refine hstands.congr fun j hj => read_writeSlots_outside _ _ _ (.inl ?_)
      rw [entryOfs_succ]
      omega
    | succ k =>
      have hshift : i + (k + 1) = i + 1 + k := by omega
      exact ih _ (i + 1) (Nat.lt_of_succ_lt_succ hk) (by simpa only [hshift, List.getElem_cons_succ] using hp)

theorem le_entryOfs (i : Nat) : 0x100 ≤ entryOfs i := Nat.le_add_right ..

section Table
variable {s : State} {p : Piece}

theorem headerPieces_standIn_buildTable (hp : p ∈ headerPieces s) : p.StandsIn (buildTable s) := by
  obtain ⟨_, hend⟩ := headerPieces_within s p hp
  have hheader : p.StandsIn (buildHeader s s.log) := by
    rw [buildHeader_eq_storeAll]
    exact Piece.standsIn_storeAll (headerPieces_disjoint s 0).of_cons hp _
  have hslots : p.StandsIn (writeSlots (buildHeader s s.log) 0 (slotsFor s.cfgNfull.toNat)) :=
    hheader.congr fun k hk => read_writeSlots_outside _ _ _ (.inl (lt_of_lt_of_le (by omega) (le_entryOfs 0)))
  rw [buildTable, writeChecksum_eq_splice]
  exact hslots.splice (((List.pairwise_cons.mp (headerPieces_disjoint s _)).1 p hp).symm)

theorem slotPieces_standIn_buildTable {i : Nat} (hi : i < (slotsFor s.cfgNfull.toNat).length)
    (hp : p ∈ slotPieces i (slotsFor s.cfgNfull.toNat)[i]) : p.StandsIn (buildTable s) := by
  obtain ⟨hbegin, _⟩ := slotPieces_within i _ p hp
  have hslots := slotPieces_standIn_writeSlots (buildHeader s s.log) 0 (slotsFor s.cfgNfull.toNat) hi
    (by simpa only [Nat.zero_add] using hp)
  rw [buildTable, writeChecksum_eq_splice]
  refine hslots.splice (.inr (le_trans ?_ hbegin))
  exact le_trans (by simp [FieldSpec.piece, hdrChecksum]) (le_entryOfs i)

/-- The field of the header that a register, or a constant, was stored in. -/
theorem get_header_buildTable {f : FieldSpec} {v : Nat} (h : f.piece v ∈ headerPieces s) :
    f.get (buildTable s) = v % 256 ^ f.width := (headerPieces_standIn_buildTable h).get

end Table

theorem magic_buildTable (s : State) : hdrMagic.get (buildTable s) = Config.magic :=
  get_header_buildTable (v := Config.magic) (by simp [headerPieces])

/-- The checksum that step 7 stores is that of the block with the checksum in it, for it is blind to its own field
(R159). -/
theorem get_checksum_writeChecksum (m : Mem) :
    hdrChecksum.get (writeChecksum m) = (checksum (writeChecksum m)).toNat :=
  calc hdrChecksum.get (writeChecksum m)
    _ = (checksum m).toNat := memRead_stored_checksum m
    _ = (checksum (writeChecksum m)).toNat := congrArg BitVec.toNat (checksum_memWrite_field m _).symm

theorem get_checksum_buildTable (s : State) : hdrChecksum.get (buildTable s) = (checksum (buildTable s)).toNat :=
  get_checksum_writeChecksum _

/-! ### The closed forms (R162) -/

/-- The pool is handed out in portions of MAX_PART until it is empty (R155, R156). -/
theorem getElem_buildSlots (n pool start : Nat) {i : Nat} (hi : i < (buildSlots n pool start).length) :
    (buildSlots n pool start)[i] = ⟨start + min pool (65535 * i), min (pool - 65535 * i) 65535⟩ := by
  induction n generalizing pool start i with
  | zero => cases hi
  | succ n ih =>
    cases i with
    | zero => simp [buildSlots]
    | succ i =>
      simp only [buildSlots, List.getElem_cons_succ, ih, Slot.mk.injEq, Config.maxPart]
      omega

theorem pool0_succ {n : Nat} (hn : 0 < n) : pool0 n + 1 = 65536 * n := by
  unfold pool0 Config.poolGranule
  omega

section ClosedForms
variable {n i : Nat}

theorem length_slotsFor (n : Nat) : (slotsFor n).length = 16 := length_buildSlots ..

theorem getElem_slotsFor (hn : 0 < n) (hi : i < (slotsFor n).length) :
    (slotsFor n)[i] = ⟨closedStart n i, closedSize n i⟩ := by
  have hi16 : i < 16 := by rwa [length_slotsFor] at hi
  have hpool := pool0_succ hn
  have hstart : Config.firstBlock + min (pool0 n) (65535 * i) = closedStart n i := by
    unfold closedStart Config.firstBlock
    split <;> omega
  have hsize : min (pool0 n - 65535 * i) 65535 = closedSize n i := by
    unfold closedSize
    split_ifs <;> omega
  rw [← hstart, ← hsize]
  exact getElem_buildSlots _ _ _ hi

theorem closedStart_zero (n : Nat) : closedStart n 0 = 1 := if_pos (.inr n.zero_le)

/-- The block after slot `i` is the first of slot `i + 1`. -/
theorem closedStart_succ (hn : 0 < n) (hi : i < 16) : closedStart n (i + 1) = closedStart n i + closedSize n i := by
  unfold closedStart closedSize
  split_ifs <;> omega

theorem closedStart_sixteen (hn : n ≤ 15) : closedStart n 16 = 65536 * n := if_neg (by omega)

theorem closedStart_lt (hi : i < 16) : closedStart n i < 256 ^ 3 := by
  unfold closedStart
  split <;> omega

theorem closedSize_lt (n i : Nat) : closedSize n i < 256 ^ 2 := by
  unfold closedSize
  split_ifs <;> omega

theorem closedSize_eq_max_iff (n i : Nat) : closedSize n i = 65535 ↔ 16 ≤ n ∨ i < n := by
  unfold closedSize
  split_ifs <;> simp <;> omega

/-- Below the active limit the full slots are those below the count; slot 0 is one of them (R157). -/
theorem builtFlags_closedSize (hn : 0 < n) (hi : i < 16) :
    builtFlags i (closedSize n i) = if i < min n 4 then 0x40 else 0 := by
  have hactive : ((i = 0 ∨ closedSize n i = Config.maxPart) ∧ i < Config.maxActive) ↔ i < min n 4 := by
    rw [closedSize_eq_max_iff, lt_min_iff, Config.maxActive]
    omega
  rw [builtFlags]
  exact if_congr hactive rfl rfl

theorem slotName_eq_closedName : ∀ i < 16, slotName i = closedName i := by decide

end ClosedForms

/-! ### The entries of a built table -/

section Entries
variable {s : State} {i : Nat}

theorem entryPieces_standIn_buildTable (hn : s.cfgNfull ≠ 0) (hi : i < 16) {p : Piece}
    (hp : p ∈ slotPieces i ⟨closedStart s.cfgNfull.toNat i, closedSize s.cfgNfull.toNat i⟩) :
    p.StandsIn (buildTable s) := by
  have hlen : i < (slotsFor s.cfgNfull.toNat).length := by rwa [length_slotsFor]
  exact slotPieces_standIn_buildTable hlen (by rwa [getElem_slotsFor (BitVec.toNat_pos_of_ne_zero hn)])

theorem get_start_buildTable (hn : s.cfgNfull ≠ 0) (hi : i < 16) :
    (entStart.inEntry i).get (buildTable s) = closedStart s.cfgNfull.toNat i :=
  (entryPieces_standIn_buildTable hn hi (by simp [slotPieces])).get.trans (Nat.mod_eq_of_lt (closedStart_lt hi))

theorem get_size_buildTable (hn : s.cfgNfull ≠ 0) (hi : i < 16) :
    (entSize.inEntry i).get (buildTable s) = closedSize s.cfgNfull.toNat i :=
  (entryPieces_standIn_buildTable hn hi (by simp [slotPieces])).get.trans (Nat.mod_eq_of_lt (closedSize_lt _ i))

theorem read_flags_buildTable (hn : s.cfgNfull ≠ 0) (hi : i < 16) :
    (buildTable s).read (entFlags.inEntry i).ofs = if i < min s.cfgNfull.toNat 4 then 0x40 else 0 := by
  have hflags : Piece.StandsIn ⟨(entFlags.inEntry i).ofs, [builtFlags i (closedSize s.cfgNfull.toNat i)]⟩
      (buildTable s) := entryPieces_standIn_buildTable hn hi (by simp [slotPieces])
  rw [← builtFlags_closedSize (BitVec.toNat_pos_of_ne_zero hn) hi]
  exact hflags.read (k := 0) (by simp)

theorem bytesAt_name_buildTable (hn : s.cfgNfull ≠ 0) (hi : i < 16) :
    (buildTable s).bytesAt (entName.inEntry i).ofs 10 = closedName i := by
  have hname : Piece.StandsIn ⟨(entName.inEntry i).ofs, slotName i⟩ (buildTable s) :=
    entryPieces_standIn_buildTable hn hi (by simp [slotPieces])
  rw [← slotName_eq_closedName i hi, ← length_slotName i]
  exact hname

/-- The block cursor runs through the starts: the entries are contiguous from block 1 on. -/
theorem cursorBefore_buildTable (hn : s.cfgNfull ≠ 0) (hi : i ≤ 16) :
    cursorBefore (buildTable s) i = closedStart s.cfgNfull.toNat i := by
  induction i with
  | zero => exact (closedStart_zero _).symm
  | succ i ih =>
    rw [closedStart_succ (BitVec.toNat_pos_of_ne_zero hn) hi, ← ih (Nat.le_of_succ_le hi), ← get_size_buildTable hn hi]
    exact (Nat.add_assoc ..).symm

/-- Within bounds the sizes and the reserved block make up the stored total (R163). -/
theorem get_total_buildTable (hn : s.cfgNfull ≠ 0) (hmax : s.cfgNfull.toNat ≤ 15)
    (htotal : s.cfgTotal.toNat = 65536 * s.cfgNfull.toNat) :
    hdrTotal.get (buildTable s) = cursorBefore (buildTable s) 16 := by
  have hfits : s.cfgTotal.toNat < 256 ^ 3 := by omega
  rw [cursorBefore_buildTable hn (Nat.le_refl 16), closedStart_sixteen hmax, ← htotal,
    get_header_buildTable (v := s.cfgTotal.toNat) (by simp [headerPieces])]
  exact Nat.mod_eq_of_lt hfits

end Entries

/-! ### The reserved bytes and the active-slot table -/

theorem read_buildTable_reserved (s : State) : ∀ k ∈ reservedOfs, (buildTable s).read k = rsvdAt s.par k := by
  have h08 : Piece.StandsIn ⟨hdrRsv08.ofs, [rsvdAt s.par 0x08]⟩ (buildTable s) :=
    headerPieces_standIn_buildTable (by simp [headerPieces])
  have h0F : Piece.StandsIn ⟨hdrRsv0F.ofs, [rsvdAt s.par 0x0F, rsvdAt s.par 0x10]⟩ (buildTable s) :=
    headerPieces_standIn_buildTable (by simp [headerPieces])
  have h15 : Piece.StandsIn ⟨hdrRsv15.ofs, (List.range hdrRsv15.width).map fun k => rsvdAt s.par (0x15 + k)⟩
      (buildTable s) := headerPieces_standIn_buildTable (by simp [headerPieces])
  intro k hk
  rcases List.mem_append.mp hk with hk | hk
  · simp only [List.mem_cons, List.not_mem_nil, or_false] at hk
    rcases hk with rfl | rfl | rfl
    · exact h08.read (k := 0) (by simp)
    · exact h0F.read (k := 0) (by simp)
    · exact h0F.read (k := 1) (by simp)
  · obtain ⟨j, hj, rfl⟩ := List.mem_range'.mp hk
    have hj' : j < hdrRsv15.width := hj
    rw [Nat.one_mul]
    exact (h15.read (by simpa using hj')).trans (by simp [List.getD, hj'])

theorem read_buildTable_slots (s : State) {k : Nat} (hlo : 0x11 ≤ k) (hhi : k ≤ 0x14) :
    (buildTable s).read k = 0xFF := by
  have hslots : Piece.StandsIn ⟨hdrSlots.ofs, List.replicate hdrSlots.width Config.unusedSlot⟩ (buildTable s) :=
    headerPieces_standIn_buildTable (by simp [headerPieces])
  obtain ⟨j, rfl⟩ := Nat.exists_eq_add_of_le hlo
  have hj : j < hdrSlots.width := show j < 4 by omega
  exact (hslots.read (by simpa using hj)).trans (by simp [List.getD, hj])

/-- Settles O39: each field is a piece of the header. -/
theorem buildWritesTheHeader : Obligations.BuildWritesTheHeader := by
  intro s _ hn
  have hboot : hdrBoot.get (buildTable s) = 0 := get_header_buildTable (v := 0) (by simp [headerPieces])
  refine ⟨_, exec_build hn, s.built_frame, magic_buildTable s, read_buildTable_reserved s, ?dtype, ?total, ?cyl,
    ?heads, ?sect, ?ilv, ?boot, fun k => read_buildTable_slots s, fun a => read_buildTable_of_ge s,
    fun a => by rw [State.built_phys]⟩
  case dtype => exact get_header_buildTable (f := hdrDriveType) (by simp [headerPieces])
  case total => exact get_header_buildTable (f := hdrTotal) (by simp [headerPieces])
  case cyl => exact get_header_buildTable (f := hdrCylinders) (by simp [headerPieces])
  case heads => exact get_header_buildTable (f := hdrHeads) (by simp [headerPieces])
  case sect => exact get_header_buildTable (f := hdrSectors) (by simp [headerPieces])
  case ilv => exact get_header_buildTable (f := hdrInterleave) (by simp [headerPieces])
  case boot => exact BitVec.eq_of_toNat_eq ((memRead_one _ _).symm.trans hboot)

/-- Settles O40: each entry holds the pieces of its slot, which has the closed forms. -/
theorem buildFillsTheEntries : Obligations.BuildFillsTheEntries := fun _ _ hn =>
  ⟨_, exec_build hn, fun _ hi => ⟨get_start_buildTable hn hi, get_size_buildTable hn hi,
    read_flags_buildTable hn hi, bytesAt_name_buildTable hn hi⟩⟩

/-! ### The warning and the refusal -/

theorem buildWarnings_eq {s : State} (hn : s.cfgNfull ≠ 0) :
    buildWarnings s = if s.cfgTotal.toNat ≠ 65536 * s.cfgNfull.toNat then
      [⟨.wBuildTotal, false, none, 65536 * s.cfgNfull.toNat, s.cfgTotal.toNat⟩] else [] := by
  rw [buildWarnings, pool0_succ (BitVec.toNat_pos_of_ne_zero hn)]
  rfl

/-- Settles O41: the pool plus one is 65536 blocks for each full partition. -/
theorem buildWarnsOnTheTotal : Obligations.BuildWarnsOnTheTotal := by
  intro s hrun hn
  refine ⟨_, exec_build hn, s.built_fault.trans hrun, fun heq => ?_, fun hne => ?_⟩
  · rw [State.built_viol, State.built_violCount, buildWarnings_eq hn, if_neg (not_not.mpr heq)]
    exact ⟨rfl, rfl⟩
  · rw [State.built_viol, State.built_violCount, buildWarnings_eq hn, if_pos hne]
    exact ⟨rfl, rfl⟩

/-- Settles O42: the count is tested before anything is built. -/
theorem buildRefusesCountZero : Obligations.BuildRefusesCountZero := fun _ _ => execBuild_of_zero

/-! ### Independence of the buffers -/

/-- Two buffers have the same 512 data bytes. -/
def sameBlock (m m' : Mem) : Prop := ∀ a, a < 512 → m.read a = m'.read a

section SameBlock
variable {m m' : Mem}

theorem sameBlock_splice (h : sameBlock m m') (o : Nat) (vs : List Byte) :
    sameBlock (m.splice o vs) (m'.splice o vs) := by
  intro a ha
  rw [Mem.read_splice, Mem.read_splice, h a ha]

theorem sameBlock_storeAll (h : sameBlock m m') (ps : List Piece) : sameBlock (m.storeAll ps) (m'.storeAll ps) := by
  induction ps generalizing m m' with
  | nil => exact h
  | cons p ps ih => exact ih (sameBlock_splice h p.ofs p.bytes)

theorem sameBlock_writeSlots (h : sameBlock m m') (i : Nat) (ts : List Slot) :
    sameBlock (writeSlots m i ts) (writeSlots m' i ts) := by
  induction ts generalizing m m' i with
  | nil => exact h
  | cons t ts ih =>
    rw [writeSlots, writeSlots, writeSlot_eq_storeAll, writeSlot_eq_storeAll]
    exact ih (sameBlock_storeAll h _) (i + 1)

theorem sameBlock_writeChecksum (h : sameBlock m m') : sameBlock (writeChecksum m) (writeChecksum m') := by
  rw [writeChecksum, writeChecksum, checksum_congr fun a ha _ _ => h a ha]
  exact sameBlock_splice h _ _

/-- Step 1 overwrites whatever stood in the block (R149). -/
theorem sameBlock_zeroed (m m' : Mem) :
    sameBlock (m.splice 0 (List.replicate Config.blockLen 0)) (m'.splice 0 (List.replicate Config.blockLen 0)) := by
  intro a ha
  have hin : a < 0 + (List.replicate Config.blockLen (0 : Byte)).length := by simpa using ha
  rw [Mem.read_splice_of_mem _ _ a.zero_le hin, Mem.read_splice_of_mem _ _ a.zero_le hin]

end SameBlock

theorem headerPieces_congr {s s' : State} (h : sameConfig s s') : headerPieces s' = headerPieces s := by
  obtain ⟨hpar, hdtype, htotal, hcyl, hheads, hsect, hilv, _⟩ := h
  simp only [headerPieces, hpar, hdtype, htotal, hcyl, hheads, hsect, hilv]

theorem buildTable_congr {s s' : State} (h : sameConfig s s') : sameBlock (buildTable s) (buildTable s') := by
  have hpieces := headerPieces_congr h
  obtain ⟨_, _, _, _, _, _, _, hnfull⟩ := h
  rw [buildTable, buildTable, buildHeader_eq_storeAll, buildHeader_eq_storeAll, hpieces, hnfull]
  exact sameBlock_writeChecksum (sameBlock_writeSlots (sameBlock_storeAll (sameBlock_zeroed _ _) _) _ _)

theorem buildWarnings_congr {s s' : State} (h : sameConfig s s') : buildWarnings s = buildWarnings s' := by
  obtain ⟨_, _, htotal, _, _, _, _, hnfull⟩ := h
  rw [buildWarnings, buildWarnings, htotal, hnfull]

/-- Settles O43: step 1 makes the blocks alike, and every later step keeps them so. -/
theorem buildReadsNoBuffer : Obligations.BuildReadsNoBuffer := by
  intro s s' t t' _ _ hcfg h h'
  rw [eq_built_of_exec_build h, eq_built_of_exec_build h']
  exact ⟨buildTable_congr hcfg, buildWarnings_congr hcfg,
    congrArg (fun vs : List Violation => BitVec.ofNat 8 vs.length) (buildWarnings_congr hcfg)⟩

/-! ### Consistency -/

theorem lt_of_flagsActive_buildTable {s : State} {i : Nat} (hn : s.cfgNfull ≠ 0) (hi : i < 16)
    (h : flagsActive ((buildTable s).read (entFlags.inEntry i).ofs) = true) : i < 4 := by
  rw [read_flags_buildTable hn hi] at h
  split at h
  · omega
  · cases h

theorem length_active_buildTable {s : State} (hn : s.cfgNfull ≠ 0) :
    ((List.range 16).filter fun i => flagsActive ((buildTable s).read (entryOfs i + 5))).length ≤ 4 := by
  rw [← List.countP_eq_length_filter]
  calc (List.range 16).countP (fun i => flagsActive ((buildTable s).read (entryOfs i + 5)))
    _ ≤ (List.range 16).countP (fun i => decide (i < 4)) := List.countP_mono_left fun i hi hactive =>
        decide_eq_true (lt_of_flagsActive_buildTable hn (List.mem_range.mp hi) hactive)
    _ = 4 := by decide

/-- Settles O44: the entries have the closed forms, in which each start is the one before it plus its size. -/
theorem builtTableIsConsistent : Obligations.BuiltTableIsConsistent := by
  intro s _ hn
  refine ⟨_, exec_build hn, magic_buildTable s, get_checksum_buildTable s, ?first, ?contiguous,
    length_active_buildTable hn, get_total_buildTable hn⟩
  case first => exact (get_start_buildTable hn (i := 0) (by decide)).trans (closedStart_zero _)
  case contiguous =>
    intro i hi
    calc (entStart.inEntry (i + 1)).get (buildTable s)
      _ = closedStart s.cfgNfull.toNat (i + 1) := get_start_buildTable hn (by omega)
      _ = closedStart s.cfgNfull.toNat i + closedSize s.cfgNfull.toNat i :=
        closedStart_succ (BitVec.toNat_pos_of_ne_zero hn) (by omega)
      _ = (entStart.inEntry i).get (buildTable s) + (entSize.inEntry i).get (buildTable s) := by
        rw [get_start_buildTable hn (by omega), get_size_buildTable hn (by omega)]

/-! ### ANALYZE of a consistent block -/

theorem exec_analyze (s : State) : exec .analyze s = execAnalyze s := by rw [exec]

/-- ANALYZE of an analyzable block leaves a valid report and the list of its warnings (R203). -/
theorem exec_analyze_completes {s : State} (h : analyzable s) :
    ∃ u, exec .analyze s = .next u ∧ u.fault = s.fault ∧ u.report.valid = true ∧
      u.viol = analyzeWarnings s.par s.log :=
  ⟨_, (exec_analyze s).trans (execAnalyze_of_analyzable h), by rw [State.withViol_fault, State.withReport_fault],
    by rw [State.withViol_report, State.withReport_report, analyzeReport], State.withViol_viol ..⟩

section Analysis
variable (p : Params) (m : Mem)

theorem entryRecord_start_toNat (i : Fin 16) : (entryRecord p m i).start.toNat = (entStart.inEntry i).get m :=
  (BitVec.toNat_ofNat ..).trans (Nat.mod_eq_of_lt (memRead_lt m _ 3))

theorem entryRecord_size_toNat (i : Fin 16) : (entryRecord p m i).size.toNat = (entSize.inEntry i).get m :=
  (BitVec.toNat_ofNat ..).trans (Nat.mod_eq_of_lt (memRead_lt m _ 2))

theorem toList_entryRecords : (entryRecords p m).toList = List.ofFn (entryRecord p m) := Vector.toList_ofFn

theorem cursorBefore_succ (i : Nat) : cursorBefore m (i + 1) = cursorBefore m i + (entSize.inEntry i).get m :=
  (Nat.add_assoc ..).symm

/-- No contiguity warning when the records start where a cursor that advances by their sizes stands. -/
theorem contigWarnings_ofFn_eq_nil {n : Nat} (f : Fin n → EntryRec) (c : Nat → Nat)
    (hstart : ∀ i : Fin n, (f i).start.toNat = c i) (hsize : ∀ i : Fin n, c (i + 1) = c i + (f i).size.toNat) :
    contigWarnings (c 0) (List.ofFn f) = [] := by
  induction n generalizing c with
  | zero => rfl
  | succ n ih =>
    have htail := ih (fun i => f i.succ) (fun k => c (k + 1)) (fun i => hstart i.succ) fun i => hsize i.succ
    have hnext : c 0 + (f 0).size.toNat = c 1 := (hsize 0).symm
    rw [List.ofFn_succ, contigWarnings, hnext, htail, if_neg (not_not.mpr ?_)]
    · rfl
    · exact hstart 0

theorem sizeSum_ofFn {n : Nat} (f : Fin n → EntryRec) (c : Nat → Nat)
    (hsize : ∀ i : Fin n, c (i + 1) = c i + (f i).size.toNat) : c 0 + sizeSum (List.ofFn f) = c n := by
  induction n generalizing c with
  | zero => rfl
  | succ n ih =>
    have htail := ih (fun i => f i.succ) (fun k => c (k + 1)) fun i => hsize i.succ
    rw [List.ofFn_succ, sizeSum, ← Nat.add_assoc, ← htail]
    exact congrArg (· + _) (hsize 0).symm

theorem cursorBefore_succ_entryRecord (i : Fin 16) :
    cursorBefore m (i + 1) = cursorBefore m i + (entryRecord p m i).size.toNat := by
  rw [cursorBefore_succ, entryRecord_size_toNat]

/-- One plus the sum of the sizes is the block cursor after the last entry (R187, R191). -/
theorem one_add_sizeSum_entryRecords : 1 + sizeSum (entryRecords p m).toList = cursorBefore m 16 := by
  rw [toList_entryRecords]
  exact sizeSum_ofFn _ (cursorBefore m) (cursorBefore_succ_entryRecord p m)

variable {m}

theorem contigWarnings_eq_nil (h : ∀ i, i < 16 → (entStart.inEntry i).get m = cursorBefore m i) :
    contigWarnings Config.firstBlock (entryRecords p m).toList = [] := by
  rw [toList_entryRecords]
  exact contigWarnings_ofFn_eq_nil _ (cursorBefore m)
    (fun i => (entryRecord_start_toNat p m i).trans (h i i.isLt)) (cursorBefore_succ_entryRecord p m)

/-- The four cross-checks of R200 one by one. -/
theorem analyzeWarnings_eq_nil (hcontig : ∀ i, i < 16 → (entStart.inEntry i).get m = cursorBefore m i)
    (hchecksum : hdrChecksum.get m = (checksum m).toNat) (htotal : hdrTotal.get m = cursorBefore m 16)
    (hgeometry : derivedCylinders m ≤ hdrCylinders.get m) : analyzeWarnings p m = [] := by
  rw [analyzeWarnings, contigWarnings_eq_nil p hcontig, checksumWarnings, if_neg (not_not.mpr hchecksum), totalWarnings,
    one_add_sizeSum_entryRecords, if_neg (not_not.mpr htotal.symm), geometryWarnings,
    if_neg (Nat.not_lt.mpr hgeometry)]
  rfl

end Analysis

/-! ### ANALYZE of a built table -/

section Clean
variable {s : State}

theorem cylinders_buildTable (h : s.cfgCyl.toNat < 65536) : hdrCylinders.get (buildTable s) = s.cfgCyl.toNat :=
  (get_header_buildTable (by simp [headerPieces])).trans (Nat.mod_eq_of_lt h)

theorem heads_buildTable (h : s.cfgHeads.toNat < 256) : hdrHeads.get (buildTable s) = s.cfgHeads.toNat :=
  (get_header_buildTable (by simp [headerPieces])).trans (Nat.mod_eq_of_lt h)

theorem sectors_buildTable (h : s.cfgSect.toNat < 256) : hdrSectors.get (buildTable s) = s.cfgSect.toNat :=
  (get_header_buildTable (by simp [headerPieces])).trans (Nat.mod_eq_of_lt h)

theorem start_eq_cursor_buildTable (hn : s.cfgNfull ≠ 0) (i : Nat) (hi : i < 16) :
    (entStart.inEntry i).get (buildTable s) = cursorBefore (buildTable s) i :=
  (get_start_buildTable hn hi).trans (cursorBefore_buildTable hn hi.le).symm

end Clean

/-- Settles O45: the built block is analyzable, and passes each of the four cross-checks. -/
theorem builtTableAnalyzesClean : Obligations.BuiltTableAnalyzesClean := by
  intro s hrun hclean hn hmax htotal hheads0 hheads hsect0 hsect hcyl hgeometry
  have hstored : hdrTotal.get (buildTable s) = s.cfgTotal.toNat := by
    rw [get_total_buildTable hn hmax htotal, cursorBefore_buildTable hn (Nat.le_refl 16), closedStart_sixteen hmax,
      htotal]
  have hgeom : derivedCylinders (buildTable s) ≤ hdrCylinders.get (buildTable s) := by
    rwa [derivedCylinders, hstored, heads_buildTable hheads, sectors_buildTable hsect, cylinders_buildTable hcyl]
  have hpadding : cleanPadding s (buildTable s) := fun k hk =>
    (read_buildTable_of_ge s hk.1).trans (hclean k hk)
  have hanalyzable : analyzable s.built := by
    refine (analyzable_iff _).mpr ⟨magic_buildTable s, (cleanPadding_iff s _).mp hpadding, ?_, ?_⟩
    · exact (heads_buildTable hheads).trans_ne hheads0.ne'
    · exact (sectors_buildTable hsect).trans_ne hsect0.ne'
  have hwarn : analyzeWarnings s.built.par s.built.log = [] := by
    rw [State.built_par, State.built_log]
    exact analyzeWarnings_eq_nil _ (start_eq_cursor_buildTable hn) (get_checksum_buildTable s)
      (get_total_buildTable hn hmax htotal) hgeom
  obtain ⟨u, hu, hfault, hvalid, hviol⟩ := exec_analyze_completes hanalyzable
  exact ⟨_, u, exec_build hn, hu, hfault.trans (s.built_fault.trans hrun), hvalid, hviol.trans hwarn⟩

end Sys2Proof.Machine
end

section
/-! PROOFS. ANALYZE (44_analyzer.md): the two faults and the refusal (O46, O47, O48), the report of a completed analysis
(O49, O50, O54), its warnings kind by kind and their order (O51, O52, O53), and that the results are a function of LOG and
the parameters (O55). -/

namespace Sys2Proof.Machine

/-! ### The four ends of ANALYZE (R202) -/

section Ends
variable {s : State}

theorem exec_analyze_of_badMagic (hm : hdrMagic.get s.log ≠ Config.magic) :
    exec .analyze s = analyzeFault s .badMagic (hdrMagic.get s.log)
      (violation .fBadMagic none Config.magic (hdrMagic.get s.log)) := by
  rw [exec_analyze, execAnalyze, if_pos hm]

theorem exec_analyze_of_trailing {k : Nat} (hm : hdrMagic.get s.log = Config.magic)
    (hk : s.log.firstNonZero Config.blockLen s.par.bufLen = some k) :
    exec .analyze s = analyzeFault s .trailingNonZero k
      (violation .fTrailingNonZero none 0 (s.log.read k).toNat) := by
  rw [exec_analyze, execAnalyze, if_neg (not_not.mpr hm), hk]

theorem exec_analyze_of_zeroDivisor (hm : hdrMagic.get s.log = Config.magic)
    (hk : s.log.firstNonZero Config.blockLen s.par.bufLen = none)
    (hz : hdrHeads.get s.log = 0 ∨ hdrSectors.get s.log = 0) : exec .analyze s = .refused .zeroDivisor := by
  rw [exec_analyze, execAnalyze, if_neg (not_not.mpr hm), hk]
  exact if_pos hz

/-- The state after a completed ANALYZE. -/
def State.analyzed (s : State) : State :=
  (s.withReport (analyzeReport s.par s.log)).withViol (analyzeWarnings s.par s.log)

theorem exec_analyze_of_analyzable (h : analyzable s) : exec .analyze s = .next s.analyzed :=
  (exec_analyze s).trans (execAnalyze_of_analyzable h)

/-- The three ways in which ANALYZE answers a state: the two faults and the completion. -/
theorem exec_analyze_next_cases {t : State} (h : exec .analyze s = .next t) :
    hdrMagic.get s.log ≠ Config.magic ∨
      (hdrMagic.get s.log = Config.magic ∧ ∃ k, s.log.firstNonZero Config.blockLen s.par.bufLen = some k) ∨
      analyzable s := by
  rw [exec_analyze] at h
  rcases execAnalyze_cases s with ⟨hm, _⟩ | ⟨hm, k, hk, _⟩ | ⟨_, _, _, e⟩ | ⟨hm, hk, hheads, hsectors, _⟩
  · exact .inl hm
  · exact .inr (.inl ⟨hm, k, hk⟩)
  · cases e.symm.trans h
  · exact .inr (.inr ((analyzable_iff s).mpr ⟨hm, hk, hheads, hsectors⟩))

end Ends

/-! ### The fault and the refusal -/

/-- A faulting ANALYZE leaves its one record in VIOL, an invalid REPORT and the fault, and nothing else (R203, R225). -/
theorem analyzeFault_leaves (s : State) (c : Cause) (info : Nat) (v : Violation) :
    ∃ t, analyzeFault s c info v = .next t ∧
      t = { s with report := t.report, viol := [v], violCount := 1, fault := c.code,
                   faultInfo := BitVec.ofNat 32 info, draws := t.draws } ∧
      t.report.valid = false ∧ sameBytes s t :=
  ⟨_, rfl, rfl, by rw [State.faultEntry_report, State.withViol_report, State.withReportInvalid_report],
    fun b _ => by cases b <;> rfl⟩

/-- Settles O46: the magic is tested before anything else. -/
theorem analyzeFaultsOnBadMagic : Obligations.AnalyzeFaultsOnBadMagic := by
  intro s _ hm
  rw [exec_analyze_of_badMagic hm]
  exact analyzeFault_leaves ..

/-- Settles O47: with the magic right, the lowest non-zero byte of the trailing space decides. -/
theorem analyzeFaultsOnTrailingBytes : Obligations.AnalyzeFaultsOnTrailingBytes := by
  intro s k _ hm hk
  rw [exec_analyze_of_trailing hm ((firstDirty_iff s s.log k).mp hk)]
  exact analyzeFault_leaves ..

/-- The head and sector counts are fields of one byte, so the test of R194 is one of bytes. -/
theorem memRead_one_eq_zero {m : Mem} {o : Nat} (h : m.read o = 0) : memRead m o 1 = 0 := by
  rw [memRead_one, h]
  rfl

/-- Settles O48: the divisors are tested once the magic and the trailing space have passed. -/
theorem analyzeRefusesZeroDivisor : Obligations.AnalyzeRefusesZeroDivisor := fun s _ hm hclean hz =>
  exec_analyze_of_zeroDivisor hm ((cleanPadding_iff s s.log).mp hclean)
    (hz.imp memRead_one_eq_zero memRead_one_eq_zero)

/-! ### The state that a completed ANALYZE leaves -/

section Analyzed
variable (s : State)

@[simp] theorem State.analyzed_par : s.analyzed.par = s.par := by
  rw [State.analyzed, State.withViol_par, State.withReport_par]
@[simp] theorem State.analyzed_log : s.analyzed.log = s.log := by
  rw [State.analyzed, State.withViol_log, State.withReport_log]
@[simp] theorem State.analyzed_report : s.analyzed.report = analyzeReport s.par s.log := by
  rw [State.analyzed, State.withViol_report, State.withReport_report]
@[simp] theorem State.analyzed_viol : s.analyzed.viol = analyzeWarnings s.par s.log := State.withViol_viol ..
@[simp] theorem State.analyzed_violCount :
    s.analyzed.violCount = BitVec.ofNat 8 (analyzeWarnings s.par s.log).length := State.withViol_violCount ..
@[simp] theorem State.analyzed_fault : s.analyzed.fault = s.fault := by
  rw [State.analyzed, State.withViol_fault, State.withReport_fault]

/-- ANALYZE writes REPORT, VIOL and VIOL_COUNT alone (R203). -/
theorem State.analyzed_frame :
    s.analyzed = { s with report := s.analyzed.report, viol := s.analyzed.viol, violCount := s.analyzed.violCount } := by
  rw [State.analyzed_report, State.analyzed_viol, State.analyzed_violCount]
  rfl

theorem sameBytes_analyzed : sameBytes s s.analyzed := fun b _ => by cases b <;> rfl

end Analyzed

/-! ### Fields as reported -/

/-- A register as wide as the field loses nothing of it. -/
theorem toNat_ofNat_memRead {w n : Nat} (hw : 256 ^ n ≤ 2 ^ w) (m : Mem) (o : Nat) :
    (BitVec.ofNat w (memRead m o n)).toNat = memRead m o n := by
  rw [BitVec.toNat_ofNat, Nat.mod_eq_of_lt (lt_of_lt_of_le (memRead_lt m o n) hw)]

theorem ofNat_memRead_one (m : Mem) (o : Nat) : BitVec.ofNat 8 (memRead m o 1) = m.read o := by
  rw [memRead_one, BitVec.ofNat_toNat, BitVec.setWidth_eq]

/-- Something made of each of `n` bytes in turn, as a list over the bytes. -/
theorem toList_ofFn_read {α : Type} (m : Mem) (o n : Nat) (f : Byte → α) :
    (Vector.ofFn fun k : Fin n => f (m.read (o + k))).toList = (m.bytesAt o n).map f := by
  rw [Vector.toList_ofFn, Mem.bytesAt, List.map_map]
  apply List.ext_getElem
  · simp
  · intro k _ _
    simp

theorem toList_ofFn_bytes (m : Mem) (o n : Nat) :
    (Vector.ofFn fun k : Fin n => m.read (o + k)).toList = m.bytesAt o n :=
  (toList_ofFn_read m o n id).trans (List.map_id _)

/-- Settles O49: each field of the report is read at its offset and width. -/
theorem analyzeReportsTheHeader : Obligations.AnalyzeReportsTheHeader := by
  intro s _ h
  have ⟨hmagic, _⟩ := h
  refine ⟨_, exec_analyze_of_analyzable h, s.analyzed_frame, sameBytes_analyzed s, ?_⟩
  rw [State.analyzed_report]
  exact ⟨rfl, (toNat_ofNat_memRead (by decide) ..).trans hmagic, toNat_ofNat_memRead (by decide) ..,
    ofNat_memRead_one .., toNat_ofNat_memRead (by decide) .., rfl, toNat_ofNat_memRead (by decide) ..,
    ofNat_memRead_one .., ofNat_memRead_one .., ofNat_memRead_one .., ofNat_memRead_one .., toList_ofFn_bytes ..,
    toList_ofFn_bytes .., toList_ofFn_bytes ..⟩

/-! ### The typeAndFlags byte (R180 to R183) -/

theorem flagsKind_toNat (tf : Byte) : (flagsKind tf).toNat = tf.toNat % 16 := by
  have hmask : Config.kindMask.toNat = 2 ^ 4 - 1 := rfl
  rw [flagsKind, BitVec.toNat_setWidth, BitVec.toNat_and, hmask, Nat.and_two_pow_sub_one_eq_mod, Nat.mod_mod]

/-- The test of a single bit by a mask. -/
theorem and_twoPow_bne_zero (tf : Byte) {i : Nat} (hi : i < 8) : (tf &&& BitVec.twoPow 8 i != 0) = tf.getLsbD i := by
  have hpow : BitVec.twoPow 8 i ≠ 0 := fun h => by
    have := congrArg (BitVec.getLsbD · i) h
    simp [hi] at this
  rw [BitVec.and_twoPow]
  cases tf.getLsbD i with
  | true => simpa using hpow
  | false => simp

theorem flagsActive_eq (tf : Byte) : flagsActive tf = tf.getLsbD 6 := and_twoPow_bne_zero tf (i := 6) (by decide)

theorem flagsLocked_eq (tf : Byte) : flagsLocked tf = tf.getLsbD 7 := and_twoPow_bne_zero tf (i := 7) (by decide)

/-- The labels of R183 as a list: the first five kinds have one each, every other the whole byte. -/
theorem flagsLabel_eq (tf : Byte) :
    flagsLabel tf = [KindLabel.clear, .proDOS, .dos33, .pascal, .cpm].getD (tf.toNat % 16) (.unknown tf) := by
  rw [← flagsKind_toNat, flagsLabel]
  generalize flagsKind tf = kind
  split_ifs with h0 h1 h2 h3 h4
  · rw [h0]; rfl
  · rw [h1]; rfl
  · rw [h2]; rfl
  · rw [h3]; rfl
  · rw [h4]; rfl
  · have hlen : 5 ≤ kind.toNat := by bv_omega
    rw [List.getD_eq_default _ _ hlen]

/-! ### The roundings (R195) -/

theorem roundHalfUp_rounds (a : Nat) {b : Nat} (hb : 0 < b) : roundedHalfUp a b (roundHalfUp a b) :=
  ⟨Nat.mul_div_le _ _, Nat.lt_mul_div_succ _ (by omega)⟩

theorem roundHalfEven_rounds (a : Nat) {b : Nat} (hb : 0 < b) : roundedHalfEven a b (roundHalfEven a b) := by
  have hlt : a % b < b := Nat.mod_lt a hb
  have hdiv : b * (a / b) + a % b = a := Nat.div_add_mod a b
  have hsucc : b * (a / b + 1) = b * (a / b) + b := Nat.mul_succ ..
  unfold roundedHalfEven roundHalfEven
  simp only [Nat.mul_assoc]
  split_ifs with hdown hup heven
  · omega
  · rw [hsucc]; omega
  · omega
  · rw [hsucc]; omega

/-- Settles O54: each size is a rounding half up. -/
theorem analyzeRoundsTheDriveSizes : Obligations.AnalyzeRoundsTheDriveSizes := by
  intro s _ ⟨_, _, hmb, _⟩ h
  refine ⟨_, exec_analyze_of_analyzable h, ?_⟩
  rw [State.analyzed_report, ← memRead_one, ← memRead_one]
  exact ⟨roundHalfUp_rounds _ hmb, roundHalfUp_rounds _ hmb⟩

/-! ### The entries -/

theorem entries_analyzed (s : State) (i : Fin 16) : s.analyzed.report.entries[i] = entryRecord s.par s.log i := by
  rw [State.analyzed_report]
  exact Vector.getElem_ofFn ..

/-- Settles O50: entry i of the report is the record of its sixteen bytes. -/
theorem analyzeDecodesTheEntries : Obligations.AnalyzeDecodesTheEntries := by
  intro s _ ⟨_, _, _, hkb⟩ h
  refine ⟨_, exec_analyze_of_analyzable h, fun i => ?_⟩
  rw [entries_analyzed]
  exact ⟨rfl, entryRecord_start_toNat .., entryRecord_size_toNat .., rfl, flagsKind_toNat _, flagsActive_eq _,
    flagsLocked_eq _, flagsLabel_eq _, toList_ofFn_bytes .., toList_ofFn_read .., roundHalfEven_rounds _ hkb⟩

/-! ### The contiguity warnings entry by entry -/

/-- What entry `i` contributes to VIOL (R185). -/
def entryWarning (m : Mem) (i : Fin 16) : List Violation :=
  if (entStart.inEntry i).get m ≠ cursorBefore m i then
    [violation .wContig (some i) (cursorBefore m i) ((entStart.inEntry i).get m)]
  else []

/-- The records of any table whose cursor advances by the sizes, entry by entry. -/
theorem contigWarnings_ofFn {n : Nat} (f : Fin n → EntryRec) (c : Nat → Nat)
    (hsize : ∀ i : Fin n, c (i + 1) = c i + (f i).size.toNat) :
    contigWarnings (c 0) (List.ofFn f) = (List.finRange n).flatMap fun i =>
      if (f i).start.toNat ≠ c i then [violation .wContig (some (f i).index) (c i) (f i).start.toNat] else [] := by
  induction n generalizing c with
  | zero => rfl
  | succ n ih =>
    have htail := ih (fun i => f i.succ) (fun k => c (k + 1)) fun i => hsize i.succ
    have hnext : c 0 + (f 0).size.toNat = c 1 := (hsize 0).symm
    rw [List.ofFn_succ, contigWarnings, hnext, htail, List.finRange_succ, List.flatMap_cons, List.flatMap_map]
    rfl

theorem contigWarnings_entryRecords (p : Params) (m : Mem) :
    contigWarnings Config.firstBlock (entryRecords p m).toList = (List.finRange 16).flatMap (entryWarning m) := by
  have h := contigWarnings_ofFn (entryRecord p m) (cursorBefore m) (cursorBefore_succ_entryRecord p m)
  simp only [entryRecord_start_toNat] at h
  rw [toList_entryRecords]
  exact h

/-! ### The warnings of each kind -/

/-- The kinds that a completed ANALYZE records, in the order of R200. -/
def analyzeKinds : List ViolKind := [.wContig, .wChecksum, .wTotal, .wGeometry]

/-- The warnings of one kind. -/
def warningsOf (p : Params) (m : Mem) : ViolKind → List Violation
  | .wContig => (List.finRange 16).flatMap (entryWarning m)
  | .wChecksum => checksumWarnings m
  | .wTotal => totalWarnings p m
  | .wGeometry => geometryWarnings m
  | .wBuildTotal | .fBadMagic | .fTrailingNonZero => []

section Kinds
variable {p : Params} {m : Mem} {v : Violation} {k : ViolKind}

theorem analyzeWarnings_eq_flatMap (p : Params) (m : Mem) :
    analyzeWarnings p m = analyzeKinds.flatMap (warningsOf p m) := by
  simp [analyzeWarnings, analyzeKinds, warningsOf, contigWarnings_entryRecords]

theorem mem_entryWarning {i : Fin 16} : v ∈ entryWarning m i ↔
    (entStart.inEntry i).get m ≠ cursorBefore m i ∧
      v = ⟨.wContig, false, some i, cursorBefore m i, (entStart.inEntry i).get m⟩ := by
  rw [entryWarning, List.mem_ite_nil_right, List.mem_singleton]
  rfl

theorem mem_checksumWarnings : v ∈ checksumWarnings m ↔
    hdrChecksum.get m ≠ (checksum m).toNat ∧
      v = ⟨.wChecksum, false, none, (checksum m).toNat, hdrChecksum.get m⟩ := by
  rw [checksumWarnings, List.mem_ite_nil_right, List.mem_singleton]
  rfl

theorem mem_totalWarnings : v ∈ totalWarnings p m ↔
    cursorBefore m 16 ≠ hdrTotal.get m ∧ v = ⟨.wTotal, false, none, cursorBefore m 16, hdrTotal.get m⟩ := by
  rw [totalWarnings, one_add_sizeSum_entryRecords, List.mem_ite_nil_right, List.mem_singleton]
  rfl

theorem mem_geometryWarnings : v ∈ geometryWarnings m ↔
    hdrCylinders.get m < derivedCylinders m ∧
      v = ⟨.wGeometry, false, none, derivedCylinders m, hdrCylinders.get m⟩ := by
  rw [geometryWarnings, List.mem_ite_nil_right, List.mem_singleton]
  rfl

theorem kind_of_mem_warningsOf (h : v ∈ warningsOf p m k) : v.kind = k := by
  cases k with
  | wContig =>
    obtain ⟨i, _, hi⟩ := List.mem_flatMap.mp h
    rw [(mem_entryWarning.mp hi).2]
  | wChecksum => rw [(mem_checksumWarnings.mp h).2]
  | wTotal => rw [(mem_totalWarnings.mp h).2]
  | wGeometry => rw [(mem_geometryWarnings.mp h).2]
  | wBuildTotal | fBadMagic | fTrailingNonZero => cases h

/-- The records of a kind in VIOL are the warnings of that kind. -/
theorem mem_analyzeWarnings_and_kind (hk : k ∈ analyzeKinds) :
    (v ∈ analyzeWarnings p m ∧ v.kind = k) ↔ v ∈ warningsOf p m k := by
  rw [analyzeWarnings_eq_flatMap, List.mem_flatMap]
  constructor
  · rintro ⟨⟨k', _, hv⟩, rfl⟩
    rwa [kind_of_mem_warningsOf hv]
  · intro hv
    exact ⟨⟨k, hk, hv⟩, kind_of_mem_warningsOf hv⟩

/-- A contiguity warning names its entry, and so comes from that entry. -/
theorem mem_contig_and_entry {i : Fin 16} :
    (v ∈ warningsOf p m .wContig ∧ v.entry = some i) ↔ v ∈ entryWarning m i := by
  constructor
  · rintro ⟨hv, hi⟩
    obtain ⟨j, _, hj⟩ := List.mem_flatMap.mp hv
    have hentry : v.entry = some j := by rw [(mem_entryWarning.mp hj).2]
    cases hentry.symm.trans hi
    exact hj
  · intro hv
    refine ⟨List.mem_flatMap.mpr ⟨i, List.mem_finRange i, hv⟩, ?_⟩
    rw [(mem_entryWarning.mp hv).2]

end Kinds

/-- Settles O51: the contiguity warnings that name entry i are what entry i contributes. -/
theorem analyzeWarnsOnContiguity : Obligations.AnalyzeWarnsOnContiguity := by
  intro s _ h
  refine ⟨_, exec_analyze_of_analyzable h, fun i v => ?_⟩
  rw [State.analyzed_viol, ← and_assoc, mem_analyzeWarnings_and_kind (by decide), mem_contig_and_entry]
  exact mem_entryWarning

theorem sizeSum_entryRecords (p : Params) (m : Mem) : sizeSum (entryRecords p m).toList = sizesBefore m 16 := by
  have h := one_add_sizeSum_entryRecords p m
  rw [cursorBefore] at h
  exact Nat.add_left_cancel h

theorem analyzeReport_partitionedBlocks (p : Params) (m : Mem) :
    (analyzeReport p m).partitionedBlocks = sizesBefore m 16 := by
  simp only [analyzeReport, sizeSum_entryRecords]

theorem derivedCylinders_eq (m : Mem) :
    derivedCylinders m = memRead m 0x05 3 / ((m.read 0x0B).toNat * (m.read 0x0C).toNat) := by
  rw [← memRead_one, ← memRead_one, ← Nat.div_div_eq_div_mul]
  rfl

/-- Settles O52: each cross-check is the membership of its kind. -/
theorem analyzeCrossChecks : Obligations.AnalyzeCrossChecks := by
  intro s _ h
  refine ⟨_, exec_analyze_of_analyzable h, ?_⟩
  rw [State.analyzed_report, State.analyzed_viol]
  exact ⟨analyzeReport_partitionedBlocks s.par s.log, rfl, derivedCylinders_eq s.log,
    fun _ => (mem_analyzeWarnings_and_kind (by decide)).trans mem_checksumWarnings,
    fun _ => (mem_analyzeWarnings_and_kind (by decide)).trans mem_totalWarnings,
    fun _ => (mem_analyzeWarnings_and_kind (by decide)).trans mem_geometryWarnings⟩

/-! ### The order of the warnings (R200) -/

/-- `v` stands before `w` in VIOL: by kind, and two contiguity warnings by entry. -/
def Violation.Before (v w : Violation) : Prop :=
  v.kind.code < w.kind.code ∨
    (v.kind.code = 1 ∧ w.kind.code = 1 ∧ ∃ i j, v.entry = some i ∧ w.entry = some j ∧ i < j)

section Order
variable {p : Params} {m : Mem}

/-- A list of one record at most is in order, whatever the order is. -/
theorem pairwise_ite_singleton {α : Type} {R : α → α → Prop} {c : Prop} [Decidable c] (a : α) :
    (if c then [a] else []).Pairwise R := by
  split
  · exact List.pairwise_singleton R a
  · exact List.Pairwise.nil

theorem before_of_mem_entryWarning {i j : Fin 16} (hij : i < j) {v w : Violation} (hv : v ∈ entryWarning m i)
    (hw : w ∈ entryWarning m j) : v.Before w := by
  rw [(mem_entryWarning.mp hv).2, (mem_entryWarning.mp hw).2]
  exact .inr ⟨rfl, rfl, i, j, rfl, rfl, hij⟩

theorem warningsOf_pairwise (p : Params) (m : Mem) (k : ViolKind) : (warningsOf p m k).Pairwise Violation.Before := by
  cases k with
  | wContig =>
    exact List.pairwise_flatMap.mpr ⟨fun i _ => pairwise_ite_singleton _,
      (List.pairwise_lt_finRange 16).imp fun hij _ hv _ hw => before_of_mem_entryWarning hij hv hw⟩
  | wChecksum => rw [warningsOf, checksumWarnings]; exact pairwise_ite_singleton _
  | wTotal => rw [warningsOf, totalWarnings]; exact pairwise_ite_singleton _
  | wGeometry => rw [warningsOf, geometryWarnings]; exact pairwise_ite_singleton _
  | wBuildTotal | fBadMagic | fTrailingNonZero => exact List.Pairwise.nil

theorem before_of_code_lt {k k' : ViolKind} (hk : k.code < k'.code) {v w : Violation} (hv : v ∈ warningsOf p m k)
    (hw : w ∈ warningsOf p m k') : v.Before w := by
  rw [← kind_of_mem_warningsOf hv, ← kind_of_mem_warningsOf hw] at hk
  exact .inl hk

theorem analyzeWarnings_pairwise (p : Params) (m : Mem) : (analyzeWarnings p m).Pairwise Violation.Before := by
  have hkinds : analyzeKinds.Pairwise fun k k' => k.code < k'.code := by decide
  rw [analyzeWarnings_eq_flatMap, List.pairwise_flatMap]
  exact ⟨fun k _ => warningsOf_pairwise p m k, hkinds.imp fun hk _ hv _ hw => before_of_code_lt hk hv hw⟩

theorem kind_mem_analyzeKinds {v : Violation} (h : v ∈ analyzeWarnings p m) : v.kind ∈ analyzeKinds := by
  rw [analyzeWarnings_eq_flatMap] at h
  obtain ⟨k, hk, hv⟩ := List.mem_flatMap.mp h
  rwa [kind_of_mem_warningsOf hv]

theorem code_of_mem_analyzeKinds : ∀ k ∈ analyzeKinds, 1 ≤ k.code ∧ k.code ≤ 4 := by decide

end Order

/-- Settles O53: the kinds stand in the order of their codes, and the entries in theirs. -/
theorem analyzeOrdersItsWarnings : Obligations.AnalyzeOrdersItsWarnings := by
  intro s hrun h
  have hlen := length_analyzeWarnings s.par s.log
  refine ⟨_, exec_analyze_of_analyzable h, s.analyzed_fault.trans hrun, ?_⟩
  rw [State.analyzed_violCount, State.analyzed_viol]
  refine ⟨hlen, ?count, fun v hv => ⟨(analyzeWarnings_isWarning _ _ v hv).2, ?kind⟩, analyzeWarnings_pairwise _ _⟩
  case count => rw [BitVec.toNat_ofNat, Nat.mod_eq_of_lt (by omega)]
  case kind => exact code_of_mem_analyzeKinds _ (kind_mem_analyzeKinds hv)

/-! ### A function of LOG and the parameters (R201) -/

section Congr
variable {m m' : Mem}

theorem firstNonZero_congr (h : ∀ a, m.read a = m'.read a) (lo hi : Nat) :
    m.firstNonZero lo hi = m'.firstNonZero lo hi := by
  simp only [Mem.firstNonZero, h]

theorem get_congr (h : ∀ a, m.read a = m'.read a) (f : FieldSpec) : f.get m = f.get m' := memRead_congr fun _ _ => h _

theorem entryRecords_congr (h : ∀ a, m.read a = m'.read a) (p : Params) : entryRecords p m = entryRecords p m' := by
  have hrec : entryRecord p m = entryRecord p m' := by
    funext i
    simp only [entryRecord, get_congr h, h]
  rw [entryRecords, hrec, entryRecords]

theorem derivedCylinders_congr (h : ∀ a, m.read a = m'.read a) : derivedCylinders m = derivedCylinders m' := by
  simp only [derivedCylinders, get_congr h]

theorem analyzeReport_congr (h : ∀ a, m.read a = m'.read a) (p : Params) : analyzeReport p m = analyzeReport p m' := by
  simp only [analyzeReport, get_congr h, h, entryRecords_congr h, checksum_congr fun a _ _ _ => h a,
    derivedCylinders_congr h]

theorem analyzeWarnings_congr (h : ∀ a, m.read a = m'.read a) (p : Params) :
    analyzeWarnings p m = analyzeWarnings p m' := by
  simp only [analyzeWarnings, checksumWarnings, totalWarnings, geometryWarnings, get_congr h, entryRecords_congr h,
    checksum_congr fun a _ _ _ => h a, derivedCylinders_congr h]

end Congr

/-- The results of ANALYZE agree as far as they are specified: FAULT_INFO where it faults, REPORT where it is valid. -/
def sameResults (t t' : State) : Prop :=
  t.viol = t'.viol ∧ t.violCount = t'.violCount ∧ t.fault = t'.fault ∧ (t.fault ≠ 0 → t.faultInfo = t'.faultInfo) ∧
    t.report.valid = t'.report.valid ∧ (t.report.valid = true → t.report = t'.report)

section Function
variable {s s' t t' : State}

theorem sameResults_of_analyzeFault {c : Cause} {info : Nat} {v : Violation} (h : analyzeFault s c info v = .next t)
    (h' : analyzeFault s' c info v = .next t') : sameResults t t' := by
  cases h
  cases h'
  exact ⟨rfl, rfl, rfl, fun _ => rfl, rfl, fun hvalid => by cases hvalid⟩

theorem sameResults_analyzed (hrun : s.running) (hrun' : s'.running) (hpar : s.par = s'.par)
    (hlog : ∀ a, s.log.read a = s'.log.read a) : sameResults s.analyzed s'.analyzed := by
  have hreport : s.analyzed.report = s'.analyzed.report := by
    rw [State.analyzed_report, State.analyzed_report, hpar, analyzeReport_congr hlog]
  have hwarn : analyzeWarnings s.par s.log = analyzeWarnings s'.par s'.log := by
    rw [hpar, analyzeWarnings_congr hlog]
  refine ⟨?viol, ?count, ?fault, fun hf => absurd (s.analyzed_fault.trans hrun) hf, by rw [hreport], fun _ => hreport⟩
  case viol => rw [State.analyzed_viol, State.analyzed_viol, hwarn]
  case count => rw [State.analyzed_violCount, State.analyzed_violCount, hwarn]
  case fault => rw [State.analyzed_fault, State.analyzed_fault, hrun, hrun']

theorem analyzable_congr (hpar : s.par = s'.par) (hlog : ∀ a, s.log.read a = s'.log.read a) (h : analyzable s) :
    analyzable s' := by
  rw [analyzable_iff] at h ⊢
  rwa [← hpar, ← get_congr hlog, ← get_congr hlog, ← get_congr hlog, ← firstNonZero_congr hlog]

theorem sameResults_of_exec_analyze (hrun : s.running) (hrun' : s'.running) (hpar : s.par = s'.par)
    (hlog : ∀ a, s.log.read a = s'.log.read a) (h : exec .analyze s = .next t) (h' : exec .analyze s' = .next t') :
    sameResults t t' := by
  have hmagic := get_congr hlog hdrMagic
  rcases exec_analyze_next_cases h with hm | ⟨hm, k, hk⟩ | hok
  · rw [exec_analyze_of_badMagic hm] at h
    rw [exec_analyze_of_badMagic (hmagic ▸ hm), ← hmagic] at h'
    exact sameResults_of_analyzeFault h h'
  · have hk' : s'.log.firstNonZero Config.blockLen s'.par.bufLen = some k := by
      rwa [← hpar, ← firstNonZero_congr hlog]
    rw [exec_analyze_of_trailing hm hk] at h
    rw [exec_analyze_of_trailing (hmagic ▸ hm) hk', ← hlog] at h'
    exact sameResults_of_analyzeFault h h'
  · rw [exec_analyze_of_analyzable hok] at h
    rw [exec_analyze_of_analyzable (analyzable_congr hpar hlog hok)] at h'
    cases h
    cases h'
    exact sameResults_analyzed hrun hrun' hpar hlog

/-- No byte of either buffer changes: ANALYZE has neither in its row of R17. -/
theorem sameBytes_of_exec_analyze (h : exec .analyze s = .next t) : sameBytes s t := by
  intro b
  rcases (exec_writes h).read_buffer b with hsame | ⟨⟨_, hi | hi⟩ | ⟨_, hi⟩, _⟩ | ⟨_, _, ⟨hi, _⟩ | ⟨hi, _⟩ | ⟨hi, _⟩⟩
  · exact hsame
  all_goals cases hi

/-- A second ANALYZE finds the block and the parameters of the first, and so reports the same. -/
theorem exec_analyze_twice (h : analyzable s) :
    ∃ t u, exec .analyze s = .next t ∧ exec .analyze t = .next u ∧ u.report = t.report ∧ u.viol = t.viol ∧
      u.violCount = t.violCount := by
  have hagain : analyzable s.analyzed := analyzable_congr s.analyzed_par.symm (fun _ => by rw [State.analyzed_log]) h
  refine ⟨_, _, exec_analyze_of_analyzable h, exec_analyze_of_analyzable hagain, ?_⟩
  simp only [State.analyzed_report, State.analyzed_viol, State.analyzed_violCount, State.analyzed_par,
    State.analyzed_log, and_self]

end Function

/-- Settles O55: what ANALYZE writes, on what its results depend, and from both the second analysis. -/
theorem analyzeIsAFunctionOfLog : Obligations.AnalyzeIsAFunctionOfLog :=
  ⟨fun _ _ _ h => ⟨sameBytes_of_exec_analyze h, (exec_writes h).sameConfig⟩,
    fun _ _ _ _ hrun hrun' hpar hlog h h' => sameResults_of_exec_analyze hrun hrun' hpar hlog h h',
    fun _ _ h => exec_analyze_twice h⟩

end Sys2Proof.Machine
end

section
/-! PROOFS. The host's transfers and the halted engine (60_exceptions.md R223 to R234): what a load and a store do where
they succeed (O19, O21) and where they fail (O22), what a halted engine still does (O14), and the reset out of
it (O10). -/

namespace Sys2Proof.Machine

section Transfers
variable {s : State} {rest : List HostAction}

/-! ### Load and store on a running engine -/

/-- An action that a halted engine would ignore is performed on the state that has taken it off the list. -/
theorem step_of_ifRunning {a : HostAction} {f : State → Out} (hrun : s.running) (h : s.inbox = a :: rest)
    (ha : ∀ u, hostAct a u = ifRunning u f) : step s = f (s.accept rest) := by
  rw [step_of_inbox_cons h, ha, ifRunning_running]
  exact hrun

theorem step_load {data : List Byte} (hrun : s.running) (h : s.inbox = .load data :: rest)
    (hlen : data.length = s.par.bufLen) :
    step s = .next ((s.accept rest).withPhys (s.phys.splice 0 data)) := by
  rw [step_of_ifRunning hrun h fun _ => rfl]
  exact if_pos hlen

theorem step_loadFails (hrun : s.running) (h : s.inbox = .loadFails :: rest) :
    step s = .next (({ s.accept rest with draws := s.draws + 1 }.withPhys (freePhys s)).faultEntry .ioFailure 0) :=
  step_of_ifRunning hrun h fun _ => rfl

theorem step_store (hrun : s.running) (h : s.inbox = .store :: rest) :
    step s = .next ((s.accept rest).withReply (.sector (s.phys.bytesAt 0 s.par.bufLen))) :=
  step_of_ifRunning hrun h fun _ => rfl

theorem step_storeFails (hrun : s.running) (h : s.inbox = .storeFails :: rest) :
    step s = .next ((s.accept rest).faultEntry .ioFailure 0) :=
  step_of_ifRunning hrun h fun _ => rfl

/-- A failed load draws BUF_LEN free bytes, so it stays inside the buffer. -/
theorem read_freePhys_of_ge (s : State) {k : Nat} (h : s.par.bufLen ≤ k) : (freePhys s).read k = s.phys.read k :=
  Mem.read_splice_of_ge _ _ (by simpa using h)

/-! ### The host's actions on a halted engine -/

/-- A halted engine performs no action but a read and a reset (R224). -/
theorem hostAct_halted_ignored {a : HostAction} (hhalt : s.fault ≠ 0) (hreg : ∀ n, a ≠ .readReg n)
    (hresult : a ≠ .readResult) (hreset : a ≠ .reset) : hostAct a s = .next s := by
  cases a with
  | load | loadFails | store | storeFails | writeReg | issue =>
    simp only [hostAct, hostLoad, hostLoadFails, hostStore, hostStoreFails, hostWriteReg, hostIssue]
    exact ifRunning_halted _ hhalt
  | readReg n => exact absurd rfl (hreg n)
  | readResult => exact absurd rfl hresult
  | reset => exact absurd rfl hreset

/-! ### Reset -/

/-- The free bytes of a reset end where the data bytes end, so the padding is zero (R26). -/
theorem read_freeBlock_of_ge (d : Nat) {k : Nat} (h : 512 ≤ k) : (freeBlock d).read k = 0 :=
  Mem.read_of_within (freeBlock_within d) h

/-- A reset does not look at FAULT, and leaves what R26 specifies (R226, R241). -/
theorem hostReset_afterReset (s : State) : s.hostReset.AfterReset where
  fault := s.hostReset_fault
  faultInfo := s.hostReset_faultInfo
  viol := s.hostReset_viol
  violCount := s.hostReset_violCount
  reportInvalid := by rw [State.hostReset_report]
  physPadding := fun _ hk => by rw [State.hostReset_phys, read_freeBlock_of_ge _ hk]
  logPadding := fun _ hk => by rw [State.hostReset_log, read_freeBlock_of_ge _ hk]

end Transfers

/-- Settles O21: the reply lists PHYS from offset 0 on. -/
theorem hostStoreReturnsPhys : Obligations.HostStoreReturnsPhys := fun s _ hrun hin =>
  ⟨s.phys.bytesAt 0 s.par.bufLen, step_store hrun hin, Mem.length_bytesAt .., fun k hk => by
    rw [Mem.getD_bytesAt _ hk, Nat.zero_add]⟩

/-- Settles O10: the step is the reset of the state that has taken the action off the host's list. -/
theorem hostResetFromEveryState : Obligations.HostResetFromEveryState := fun s rest hin =>
  ⟨(s.accept rest).hostReset, step_of_inbox_cons hin, hostReset_afterReset _, State.hostReset_par _,
    State.hostReset_inbox _⟩

/-- Settles O14: the two reads by what they reply, every other action by its test of FAULT. -/
theorem haltedEngineIgnoresTheHost : Obligations.HaltedEngineIgnoresTheHost := by
  intro s a rest hhalt hin
  refine ⟨?readReg, ?readResult, fun hreg hresult hreset => ?ignored⟩
  case readReg => rintro n rfl; exact step_readReg hin
  case readResult => rintro rfl; exact step_of_inbox_cons hin
  case ignored => exact (step_of_inbox_cons hin).trans (hostAct_halted_ignored hhalt hreg hresult hreset)

/-- Settles O19: the load is one store of BUF_LEN bytes at offset 0. -/
theorem hostLoadFillsPhys : Obligations.HostLoadFillsPhys := by
  intro s data rest hrun hin hlen
  refine ⟨_, step_load hrun hin hlen, rfl, fun k hk => ?inside, fun k hk => ?outside⟩
  case inside => rw [State.withPhys_phys, Mem.read_splice_of_mem _ _ (Nat.zero_le k) (by omega), Nat.sub_zero]
  case outside => rw [State.withPhys_phys, Mem.read_splice_of_ge _ _ (by omega)]

/-- Settles O22: both failures are fault entry with cause IoFailure; the load has drawn new bytes for PHYS before. -/
theorem failedTransferHalts : Obligations.FailedTransferHalts := fun s _ hrun =>
  ⟨fun hin => ⟨_, step_loadFails hrun hin, rfl, fun _ hk => read_freePhys_of_ge s hk⟩,
    fun hin => step_storeFails hrun hin⟩

end Sys2Proof.Machine
end

section
/-! PROOFS. The faults and refusals of the commands (60_exceptions.md): what a faulting command writes (O58), where a
command stops (O59), and that no step raises one of the two assertions (O60). -/

namespace Sys2Proof.Machine

/-! ### What leaves FAULT as it is -/

theorem State.withBuffer_fault (s : State) (b : Buf) (m : Mem) : (s.withBuffer b m).fault = s.fault := by
  cases b <;> rfl

theorem State.writeRegister_fault (s : State) (n : Nat) (v : Reg32) : (s.writeRegister n v).fault = s.fault := by
  rcases writeRegister_cases s n v with e | e | e | e | e | e | e | e <;> rw [e]

section Faults
variable {s t : State} {i : Instr}

/-! ### A command that faults -/

/-- FAULT leaves 0 by fault entry alone, or by the fault of ANALYZE, which writes VIOL and REPORT besides (R223,
R225). -/
theorem CommandWrites.fault_entry_of_ne_zero (h : CommandWrites s i t) (hrun : s.running) (hf : t.fault ≠ 0) :
    (∃ c info, t = s.faultEntry c info) ∨
      i = .analyze ∧ ∃ c info vs, t = (s.withReportInvalid.withViol vs).faultEntry c info := by
  cases h with
  | fault _ c info => exact .inl ⟨c, info, rfl⟩
  | analyzeFault c info vs => exact .inr ⟨rfl, c, info, vs, rfl⟩
  | set _ b => exact absurd ((s.withBuffer_fault b _).trans hrun) hf
  | result | gettext | deinterleave | interleave | build | analyze => exact absurd hrun hf

/-- BUILD completes or is refused: it never faults (R148). -/
theorem exec_build_fault_eq (h : exec .build s = .next t) : t.fault = s.fault := by
  have h' : execBuild s = .next t := h
  rcases execBuild_cases s with ⟨_, e⟩ | ⟨_, e⟩
  · cases e.symm.trans h'
  · cases e.symm.trans h'
    rw [State.withViol_fault, State.withLog_fault]

/-- CHECKSUM completes from every state (R137). -/
theorem exec_checksum_fault_eq (h : exec .checksum s = .next t) : t.fault = s.fault := by
  cases (exec_checksum s).symm.trans h
  exact s.withRes_fault _

/-! ### Where a command stops -/

/-- A range-checked access always answers a next state. -/
theorem checked_completes (ofs n : Nat) (s : State) (f : State → State) : ∃ t, checked ofs n s f = .next t := by
  rcases checked_cases ofs n s f with ⟨_, e⟩ | ⟨_, e⟩ <;> exact ⟨_, e⟩

theorem getField_completes (n : Nat) (b : Buf) (ofs : Nat) (s : State) : ∃ t, getField n b ofs s = .next t :=
  checked_completes ..

theorem setField_completes (n : Nat) (b : Buf) (ofs v : Nat) (s : State) : ∃ t, setField n b ofs v s = .next t :=
  checked_completes ..

theorem execGettext_completes (b : Buf) (ofs len : Nat) (s : State) : ∃ t, execGettext b ofs len s = .next t :=
  checked_completes ..

/-- A dirty padding is a fault, and so a next state too. -/
theorem execDeinterleave_completes (s : State) : ∃ t, execDeinterleave s = .next t := by
  rcases execDeinterleave_cases s with ⟨_, _, e⟩ | ⟨_, e⟩ <;> exact ⟨_, e⟩

theorem execInterleave_completes (s : State) : ∃ t, execInterleave s = .next t := by
  rcases execInterleave_cases s with ⟨_, _, e⟩ | ⟨_, e⟩ <;> exact ⟨_, e⟩

theorem memRead_one_eq_zero_iff {m : Mem} {o : Nat} : memRead m o 1 = 0 ↔ m.read o = 0 :=
  ⟨fun h => BitVec.eq_of_toNat_eq ((memRead_one m o).symm.trans h), memRead_one_eq_zero⟩

/-- A state that gives `i` no meaning, and the refusal that says so: the two of R227. -/
def RefusedAs (i : Instr) (s : State) (r : Refusal) : Prop :=
  (i = .build ∧ s.cfgNfull = 0 ∧ r = .builderCountZero) ∨
    (i = .analyze ∧ memRead s.log 0x00 2 = 0xAEAE ∧ cleanPadding s s.log ∧
      (s.log.read 0x0B = 0 ∨ s.log.read 0x0C = 0) ∧ r = .zeroDivisor)

theorem execBuild_next_or_refused (s : State) :
    (∃ t, execBuild s = .next t) ∨ ∃ r, execBuild s = .refused r ∧ RefusedAs .build s r := by
  rcases execBuild_cases s with ⟨hz, e⟩ | ⟨_, e⟩
  · exact .inr ⟨_, e, .inl ⟨rfl, hz, rfl⟩⟩
  · exact .inl ⟨_, e⟩

theorem execAnalyze_next_or_refused (s : State) :
    (∃ t, execAnalyze s = .next t) ∨ ∃ r, execAnalyze s = .refused r ∧ RefusedAs .analyze s r := by
  rcases execAnalyze_cases s with ⟨_, e⟩ | ⟨_, _, _, e⟩ | ⟨hmagic, hclean, hzero, e⟩ | ⟨_, _, _, _, e⟩
  · exact .inl ⟨_, e⟩
  · exact .inl ⟨_, e⟩
  · exact .inr ⟨_, e, .inr ⟨rfl, hmagic, (cleanPadding_iff s s.log).mpr hclean,
      hzero.imp memRead_one_eq_zero_iff.mp memRead_one_eq_zero_iff.mp, rfl⟩⟩
  · exact .inl ⟨_, e⟩

/-- All that a command can answer: a next state, or one of the two refusals. -/
theorem exec_next_or_refused (i : Instr) (s : State) :
    (∃ t, exec i s = .next t) ∨ ∃ r, exec i s = .refused r ∧ RefusedAs i s r := by
  cases i with
  | getu8 | getu16 | getu24 => exact .inl (getField_completes ..)
  | gettext => exact .inl (execGettext_completes ..)
  | setu8 | setu16 | setu24 => exact .inl (setField_completes ..)
  | deinterleave => exact .inl (execDeinterleave_completes s)
  | interleave => exact .inl (execInterleave_completes s)
  | checksum => exact .inl ⟨_, exec_checksum s⟩
  | build => exact execBuild_next_or_refused s
  | analyze => exact execAnalyze_next_or_refused s

/-! ### The causes that occur -/

/-- An effect leaves FAULT as it is or brings one of the causes that can occur (R210, R213). -/
theorem Effect.fault_eq_or (h : Effect s t) : t.fault = s.fault ∨ ∃ c ∈ Cause.canOccur, t.fault = c.code := by
  cases h with
  | store b => exact .inl (s.withBuffer_fault b _)
  | config n v => exact .inl (s.writeRegister_fault n v)
  | result | text => exact .inl rfl
  | built => exact .inl (by rw [State.withViol_fault, State.withLog_fault])
  | analyzed => exact .inl (by rw [State.withViol_fault, State.withReport_fault])
  | fault c info hc => exact .inr ⟨c, by revert c; decide, rfl⟩
  | rejected c info k expected found hc => exact .inr ⟨c, by rcases hc with rfl | rfl <;> decide, rfl⟩
  | loadLost => exact .inr ⟨.ioFailure, by decide, rfl⟩

/-- FAULT holds neither code of the two assertions (R213). -/
def State.NoAssertion (s : State) : Prop := s.fault ≠ 3 ∧ s.fault ≠ 4

theorem noAssertion_of_fault_eq (h : t.fault = s.fault) (hs : s.NoAssertion) : t.NoAssertion := by
  rwa [State.NoAssertion, h]

theorem Cause.code_ne_assertion : ∀ c ∈ Cause.canOccur, c.code ≠ 3 ∧ c.code ≠ 4 := by decide

theorem Effect.noAssertion (h : Effect s t) (hs : s.NoAssertion) : t.NoAssertion := by
  rcases h.fault_eq_or with e | ⟨c, hc, e⟩
  · exact noAssertion_of_fault_eq e hs
  · rw [State.NoAssertion, e]
    exact Cause.code_ne_assertion c hc

theorem hostReset_noAssertion (s : State) : s.hostReset.NoAssertion := by
  rw [State.NoAssertion, State.hostReset_fault]
  decide

end Faults

/-- Settles O58: fault entry is all that a fault writes, but for ANALYZE; BUILD and CHECKSUM leave FAULT as it was. -/
theorem faultsArePrecise : Obligations.FaultsArePrecise := by
  intro i s t hrun h hf
  refine ⟨?frame, fun hi => ?entry, ?notBuild, ?notChecksum⟩
  case frame =>
    rcases (exec_writes h).fault_entry_of_ne_zero hrun hf with ⟨c, info, rfl⟩ | ⟨_, c, info, vs, rfl⟩
    · rfl
    · rfl
  case entry =>
    rcases (exec_writes h).fault_entry_of_ne_zero hrun hf with ⟨c, info, rfl⟩ | ⟨hanalyze, _⟩
    · rfl
    · exact absurd hanalyze hi
  case notBuild => rintro rfl; exact hf ((exec_build_fault_eq h).trans hrun)
  case notChecksum => rintro rfl; exact hf ((exec_checksum_fault_eq h).trans hrun)

/-- Settles O59, from all that a command can answer. -/
theorem refusalsAreTheTwoOfTheSpec : Obligations.RefusalsAreTheTwoOfTheSpec := by
  intro i s _
  rcases exec_next_or_refused i s with ⟨t, e⟩ | ⟨r, e, hr⟩
  · rw [e]
    exact ⟨nofun, nofun⟩
  · rw [e]
    refine ⟨nofun, ?_⟩
    rintro _ ⟨⟩
    exact hr

/-- Settles O60: a step keeps FAULT off the two codes, because every cause that an effect brings can occur. -/
theorem assertionsNeverFire : Obligations.AssertionsNeverFire := fun _ _ hstep h3 h4 =>
  step_preserves (P := State.NoAssertion) (fun u rest => noAssertion_of_fault_eq (u.accept_fault rest))
    (fun u r => noAssertion_of_fault_eq (u.withReply_fault r)) (fun u _ => hostReset_noAssertion u)
    (fun _ _ hu _ heff => heff.noAssertion hu) ⟨h3, h4⟩ hstep

end Sys2Proof.Machine
end

section
/-! PROOFS. Waiting for the host (70_reset_and_hazards.md R242): a step with no host action to come (O8). -/

namespace Sys2Proof.Machine

/-- With no action to come only the first case of `step_cases` is left: the engine waits. -/
theorem step_of_inbox_nil {s : State} (h : s.inbox = []) : step s = .next s := by
  rcases step_cases s with ⟨_, hwait⟩ | ⟨a, rest, hcons, _⟩
  · exact hwait
  · exact absurd (h.symm.trans hcons) (List.cons_ne_nil a rest).symm

/-- Settles O8, whatever FAULT holds: the list of host actions alone decides that the engine waits. -/
theorem engineWaitsForTheHost : Obligations.EngineWaitsForTheHost := fun _ hin => step_of_inbox_nil hin

end Sys2Proof.Machine
end

section
/-! PROOFS. A load of a number of bytes that 60_exceptions.md R231 does not speak of (O20): the other branch of the length
test that `step_load` passes. -/

namespace Sys2Proof.Machine

/-- Taking the action off the list keeps the parameters, so the test of the length is against BUF_LEN of `s`. -/
theorem step_load_of_length_ne {s : State} {data : List Byte} {rest : List HostAction} (hrun : s.running)
    (h : s.inbox = .load data :: rest) (hlen : data.length ≠ s.par.bufLen) : step s = .fault .hostLoadLength := by
  rw [step_of_ifRunning hrun h fun _ => rfl, State.accept_par]
  exact if_neg hlen

/-- Settles O20: a running engine performs the load, and its test of the length fails. -/
theorem loadOfWrongLengthStops : Obligations.LoadOfWrongLengthStops := fun _ _ _ hrun hin hlen =>
  step_load_of_length_ne hrun hin hlen

end Sys2Proof.Machine
end
